-- ==== Sys2Proof/Word.lean ====
section
/-! DEFINITION. The word types of the block (spec/00_scope.md R10, R11): unsigned fields, pixel values and the bit
patterns of binary32 values. -/

namespace Sys2Proof

/-- `u8` (R10). -/
abbrev Byte := BitVec 8

/-- `u16` (R10): CRC values, sizes, coordinates and colors of the wire. -/
abbrev Word16 := BitVec 16

/-- An `f32` (R11), held as its binary32 bit pattern (R42); its arithmetic stands in Machine/Binary32.lean. -/
abbrev F32 := BitVec 32

/-- A pixel value or a color operand (R124): sixteen bits, of which a mode of depth `d` uses the low `d`. -/
abbrev Pixel := BitVec 16

end Sys2Proof
end

