-- ==== Sys2Proof/Machine/Types.lean ====
section
/-! DEFINITION. The data the spec's state is made of (spec/10_state.md): agents, packets in flight, messages, render
modes, primitives, scanlines, log events, faults and refusals. -/

namespace Sys2Proof.Machine

/-- The agents of R8. -/
inductive Agent where
  | host | framer | a | b | display
deriving DecidableEq, Repr, Inhabited

/-- The two execution contexts that take the lock (R33, R180). -/
inductive Ctx where
  | a | b
deriving DecidableEq, Repr, Inhabited

/-- The lock `L` (R33). -/
inductive Lock where
  | free
  | held (g : Ctx)
deriving DecidableEq, Repr, Inhabited

/-- Ownership of the external-memory bus (R32). -/
inductive Bus where
  | free
  | held (g : Agent)
deriving DecidableEq, Repr, Inhabited

/-- One entry of the model's own schedule (log 1): which agent acts, and for the Host what it does (R186, R86). -/
inductive Turn where
  /-- The Host appends one byte to `rx` (R186). -/
  | hostSend (b : Byte)
  /-- The Host removes the first byte of `tx` (R186). -/
  | hostTake
  /-- The Host's extra step with `LINK_LOSSY = true`: byte `i` of `rx` is deleted (R86). -/
  | hostLose (i : Nat)
  /-- The Framer: its byte channel and its completion callback (R83 to R94). -/
  | framer
  /-- Context A (R106, R132, R166). -/
  | ctxA
  /-- Context B (R158 to R165). -/
  | ctxB
deriving DecidableEq, Repr, Inhabited

/-! ### Link side -/

/-- What the byte channel is armed with (R20). -/
inductive Target where
  | tok | hdr | crc | pay
deriving DecidableEq, Repr, Inhabited

/-- The framer's phase (R19). -/
inductive FramerPhase where
  | init | awaitToken | awaitHeader | awaitHeaderCrc | awaitPayload | awaitPayloadCrc
deriving DecidableEq, Repr, Inhabited

/-- The in-flight queue slot (R23). A `none` byte is one the byte channel has not written. -/
structure InFlight where
  id : Option Byte
  size : Option Byte
  payload : List (Option Byte)
  discard : Bool
deriving DecidableEq, Repr, Inhabited

/-- A message (R24). -/
structure Message where
  id : Byte
  size : Byte
  payload : List (Option Byte)
  received : Bool
deriving DecidableEq, Repr, Inhabited

/-- The commands that have a handler (R25, R192): the kinds `register` can install. -/
inductive CommandKind where
  | modeChange | setPixel | drawLine | drawTriangle | clearScreen | swapBuffer
  | beginPrimitives | endPrimitives | writeVertex | setPerspective | infoRequest
deriving DecidableEq, Repr, Inhabited

/-! ### Render mode -/

/-- The legal pixel depths (`DEPTHS` of R9). -/
inductive Depth where
  | d1 | d2 | d4 | d8 | d12 | d16
deriving DecidableEq, Repr, Inhabited

/-- Bits per pixel (R9). -/
def Depth.bits : Depth → Nat
  | .d1 => 1
  | .d2 => 2
  | .d4 => 4
  | .d8 => 8
  | .d12 => 12
  | .d16 => 16

/-- The `depth` operand of MODE_CHANGE as a legal depth, or `none` (R63, R112). -/
def Depth.ofNat? : Nat → Option Depth
  | 1 => some .d1
  | 2 => some .d2
  | 4 => some .d4
  | 8 => some .d8
  | 12 => some .d12
  | 16 => some .d16
  | _ => none

/-- A vector of three binary32 values: a row of `ROTATION` (R139), or a point. -/
structure Vec3 where
  x : F32
  y : F32
  z : F32
deriving DecidableEq, Repr, Inhabited

/-- A row of the projection matrix, or a clip-space point (R141). -/
structure Vec4 where
  x : F32
  y : F32
  z : F32
  w : F32
deriving DecidableEq, Repr, Inhabited

/-- An integer quaternion: a rotation, by its Euler-Rodrigues matrix (R139; log 17). -/
structure Quaternion where
  w : Int
  x : Int
  y : Int
  z : Int
deriving DecidableEq, Repr, Inhabited

/-- A 3×3 matrix by rows (R139). -/
structure Mat3 where
  r0 : Vec3
  r1 : Vec3
  r2 : Vec3
deriving DecidableEq, Repr, Inhabited

/-- The projection matrix `P : f32[4][4]` by rows (R26). -/
structure Mat4 where
  r0 : Vec4
  r1 : Vec4
  r2 : Vec4
  r3 : Vec4
deriving DecidableEq, Repr, Inhabited

/-- `Vertex3` (R26). -/
structure Vertex3 where
  x : F32
  y : F32
  z : F32
  color : Pixel
deriving DecidableEq, Repr, Inhabited

/-- `mesh_state` (R26). -/
inductive MeshState where
  | idle | open_ | closed
deriving DecidableEq, Repr, Inhabited

/-- What Graphic2D and Graphic3D share (R26). -/
structure Screen where
  width : Word16
  height : Word16
  depth : Depth
  palette : Bool
deriving DecidableEq, Repr, Inhabited

/-- What Graphic3D adds (R26). -/
structure Scene where
  proj : Mat4
  mesh : List Vertex3
  meshState : MeshState
  angle : F32
deriving DecidableEq, Repr, Inhabited

/-- The render mode (R26): exactly one of the three. -/
inductive Mode where
  | text (width height : Word16) (font : Byte)
  | graphic2D (g : Screen)
  | graphic3D (g : Screen) (m : Scene)
deriving DecidableEq, Repr, Inhabited

/-- `W` of a mode (R26). -/
def Mode.width : Mode → Word16
  | .text w _ _ => w
  | .graphic2D g => g.width
  | .graphic3D g _ => g.width

/-- `H` of a mode (R26). -/
def Mode.height : Mode → Word16
  | .text _ h _ => h
  | .graphic2D g => g.height
  | .graphic3D g _ => g.height

/-- The screen of a Graphic mode; Text has none (R26). -/
def Mode.screen? : Mode → Option Screen
  | .text .. => none
  | .graphic2D g => some g
  | .graphic3D g _ => some g

/-! ### Primitives -/

/-- A prepared triangle (R27, R128). -/
structure Tri where
  dx1 : F32
  dx2 : F32
  dx3 : F32
  sx : F32
  ex : F32
  minY : Word16
  midY : Word16
  maxY : Word16
  longLeft : Bool
  color : Pixel
deriving DecidableEq, Repr, Inhabited

/-- A span (R27). -/
structure Span where
  y : Word16
  x0 : Int
  x1 : Int
  color : Pixel
deriving DecidableEq, Repr, Inhabited

/-- An entry of the primitive queue (R27). -/
inductive Primitive where
  | tri (t : Tri)
  | span (s : Span)
deriving DecidableEq, Repr, Inhabited

/-! ### FrameStore, contexts and display -/

/-- A plane of the FrameStore, named by its buffer id (R30). -/
inductive PlaneId where
  | zero | one
deriving DecidableEq, Repr, Inhabited

/-- Context A's phase with the render pass's line cursor `a.line` (R35). -/
inductive APhase where
  | idle | drain
  | render (line : Nat)
deriving DecidableEq, Repr, Inhabited

/-- Context B's phase (R36). -/
inductive BPhase where
  | getSlot | waitTick | read | submit
deriving DecidableEq, Repr, Inhabited

/-- A scanline slot (R36, R37). -/
structure Slot where
  frame : Nat
  phys : Nat
deriving DecidableEq, Repr, Inhabited

/-- An item of a scanline command (R164). A run carries its length and its display pixels, whose width is OPEN. -/
inductive ScanItem where
  | rawRun (width : Nat) (pixels : List Nat)
  | endOfLine
deriving DecidableEq, Repr, Inhabited

/-- `ScanlineCmd` (R164). -/
abbrev ScanlineCmd := List ScanItem

/-! ### Log, faults, refusals -/

/-- The log events of R173. -/
inductive LogEvent where
  | unknownId (id : Byte)
  | wrongMode (id : Byte)
  | invalidMode
  | meshNotOpen
deriving DecidableEq, Repr, Inhabited

/-- The sticky faults of R170, each with the info it records. -/
inductive FaultInfo where
  /-- Code 1: primitives left after line `H-1`, and how many. -/
  | triangleNotRetired (left : Nat)
  /-- Code 2: a span pixel outside its line, and where. -/
  | pixelOutOfRange (x : Int) (y : Nat)
  /-- Code 3: a segment transfer past `EXT_MEM_SIZE`, and its start address. -/
  | extMemRange (addr : Nat)
  /-- Code 4: a vertex whose pixel coordinate is NaN, infinite or out of range. -/
  | nonFiniteVertex (v : Vertex3)
deriving DecidableEq, Repr, Inhabited

/-- The code a fault reports (R170). -/
def FaultInfo.code : FaultInfo → Nat
  | .triangleNotRetired _ => 1
  | .pixelOutOfRange _ _ => 2
  | .extMemRange _ => 3
  | .nonFiniteVertex _ => 4

/-- The refusal marks of R171. -/
inductive RefusalName where
  | textMode | releaseNotHeld | noHandlerSlot
deriving DecidableEq, Repr, Inhabited

/-- What a value-returning internal operation returned (the model's own, log 9). -/
inductive Returned where
  | nothing
  /-- `crc.read()` (R80). -/
  | crcValue (c : Word16)
  /-- The guard `crc_ok` (R81). -/
  | guard (ok : Bool)
  /-- The bytes of `read_line` (R153). -/
  | bytes (bs : List Byte)
deriving DecidableEq, Repr, Inhabited

end Sys2Proof.Machine
end

