-- ==== Sys2Proof/Config.lean ====
section
/-! DEFINITION. What an implementation fixes (the parameters of spec/00_scope.md R9) and the free values of the model.
The numeric parameters are a plain record that State carries and no step changes (log 4), so that a statement about
every state is a statement about every value of them. What the spec leaves open altogether is an opaque constant:
nothing in Lean can evaluate it. -/

namespace Sys2Proof

open Sys2Proof.Machine

/-- `ID_MAP` (R9, R62): the id byte of each command; INFO_RESPONSE is the last. -/
structure IdMap where
  modeChange : Byte
  setPixel : Byte
  drawLine : Byte
  drawTriangle : Byte
  clearScreen : Byte
  swapBuffer : Byte
  beginPrimitives : Byte
  endPrimitives : Byte
  writeVertex : Byte
  setPerspective : Byte
  infoRequest : Byte
  infoResponse : Byte
deriving DecidableEq, Repr, Inhabited

/-- The ids of the table of R62. -/
def IdMap.table : IdMap :=
  { modeChange := 0x01#8, setPixel := 0x02#8, drawLine := 0x03#8, drawTriangle := 0x04#8
    clearScreen := 0x05#8, swapBuffer := 0x06#8, beginPrimitives := 0x07#8, endPrimitives := 0x08#8
    writeVertex := 0x09#8, setPerspective := 0x0A#8, infoRequest := 0x0B#8, infoResponse := 0x0C#8 }

/-- How packets look on the wire: `CRC_REFLECTED` and `ID_MAP` (R9). -/
structure Wire where
  crcReflected : Bool
  ids : IdMap
deriving DecidableEq, Repr, Inhabited

/-- The spec's choice of both (D3, D10). -/
def Wire.spec : Wire := { crcReflected := false, ids := IdMap.table }

/-- The parameters of R9 that are data. -/
structure Params where
  wire : Wire
  /-- `LINK_LOSSY`. -/
  lossy : Bool
  /-- `TICK_BLOCKS_B`. -/
  tickBlocksB : Bool
  /-- `EXT_MEM_SIZE`. -/
  extMemSize : Nat
  /-- `PLANE_OFFSET`. -/
  planeOffset : Nat
  /-- `V_SCALE`, at least 1. -/
  vScale : Nat
  /-- `VIDEO_LINES`. -/
  videoLines : Nat
  /-- `INITIAL_MODE`. -/
  initialMode : Mode
  /-- `ANGLE_STEP`, above 0. -/
  angleStep : F32
  /-- `TZ`, above 0. -/
  tz : F32
  /-- `EPS`, above 0. -/
  eps : F32
deriving DecidableEq, Repr, Inhabited

/-- The default configuration of spec/95_test_vectors.md, with the switches as R9 gives them (log 4). `ANGLE_STEP`,
`TZ` and `EPS` are the binary32 values nearest to 0.5, 2.0 and 1e-6. -/
def Params.vectors : Params :=
  { wire := Wire.spec, lossy := false, tickBlocksB := true, extMemSize := 2048, planeOffset := 1000
    vScale := 1, videoLines := 8
    initialMode := .graphic2D { width := 16#16, height := 8#16, depth := .d8, palette := false }
    angleStep := 0x3F000000#32, tz := 0x40000000#32, eps := 0x358637BD#32 }

/-! ### Constants of R9 -/

/-- `START_TOKEN`. -/
def Config.startToken : Byte := 0x7E#8
/-- `MAX_PAYLOAD`. -/
def Config.maxPayload : Nat := 32
/-- `QUEUE_CAP`. -/
def Config.queueCap : Nat := 32
/-- `PAGE_SIZE`. -/
def Config.pageSize : Nat := 1024
/-- `CRC_SEED`. -/
def Config.crcSeed : Word16 := 0x0000#16
/-- `CRC_POLY`, the non-reflected form (R76). -/
def Config.crcPoly : Word16 := 0x1021#16
/-- The reflected form of `CRC_POLY` (R77). -/
def Config.crcPolyReflected : Word16 := 0x8408#16

/-! ### Functions that are OPEN parameters (log 17) -/

/-- The rotation that `ROTATION` (R139) makes at a non-zero angle; `rotation` rounds its matrix to binary32. -/
opaque Config.rotationAt : F32 → Quaternion
/-- `PALETTE`: the entry of a pixel value in the table for a depth (R163). DESIGN CHOICE: the spec leaves the width of an
entry OPEN, so it is a natural number of any size. -/
opaque Config.palette : Depth → Pixel → Nat
/-- `VIDEO_PIXEL` of a pixel value or a palette entry (R163). DESIGN CHOICE: the spec leaves the width of a display pixel
OPEN, so it is a natural number of any size. -/
opaque Config.videoPixel : Nat → Nat
/-- `SCANLINE_ENCODING` (R164): the words the display hardware receives. -/
opaque Config.scanlineEncoding : ScanlineCmd → List Nat

/-! ### Free values -/

/-- The agent that acts when the schedule lists none (log 1). -/
opaque Config.freeTurn : Nat → Turn
/-- `draw()` of a byte (R102), fresh for each count (log 6). -/
opaque Config.freeByte : Nat → Byte
/-- `draw()` of a pixel below the image (R161), fresh for each count and place (log 6, log 23). -/
opaque Config.freePixel : Nat → Nat → Pixel
/-- The unspecified byte of external memory at an address (R31), the same at every read (log 5). -/
opaque Config.extReset : Nat → Byte
/-- Unspecified reset values (R21, R22, R29, R36; log 7). -/
opaque Config.resetTok : Byte
opaque Config.resetCrc0 : Byte
opaque Config.resetCrc1 : Byte
opaque Config.resetExpected : Word16
opaque Config.resetLine : Nat → Pixel
opaque Config.resetPixels : Nat → Pixel
/-- The sign and payload bits of a NaN that an operation makes (IEEE 754 leaves them open; log 14). -/
opaque Config.nanBits : Nat → F32 → F32 → BitVec 32
/-- The value `tan32` gives for a NaN or an infinity, which has no real tangent (log 15). -/
opaque Config.tanOfNonFinite : F32 → F32
/-- The value `round` gives for a NaN or an infinity, which has no nearest integer (log 16). -/
opaque Config.roundOfNonFinite : F32 → Int

end Sys2Proof
end

