-- ==== Sys2Proof/Machine/Binary32.lean ====
section
/-! DEFINITION. IEEE 754 binary32 arithmetic, round to nearest, ties to even (spec/00_scope.md R11, D26). Every finite
binary32 value is a whole multiple of 2^-149, so values are converted to integers in that unit, combined exactly, and
narrowed once at the end. The bit pattern of a NaN result is a free value (log 14). -/

namespace Sys2Proof.Machine

/-- The biased exponent field. -/
def f32Exp (x : F32) : Nat := x.toNat / 2 ^ 23 % 256

/-- The fraction field. -/
def f32Frac (x : F32) : Nat := x.toNat % 2 ^ 23

/-- The sign bit. -/
def f32Neg (x : F32) : Bool := x.msb

def f32IsNaN (x : F32) : Bool := f32Exp x == 255 && f32Frac x != 0

def f32IsInf (x : F32) : Bool := f32Exp x == 255 && f32Frac x == 0

def f32IsZero (x : F32) : Bool := f32Exp x == 0 && f32Frac x == 0

/-- Neither NaN nor infinite. -/
def f32Finite (x : F32) : Bool := f32Exp x != 255

/-- The magnitude of a finite value in units of 2^-149. -/
def f32Mag (x : F32) : Nat := if f32Exp x = 0 then f32Frac x else (f32Frac x + 2 ^ 23) * 2 ^ (f32Exp x - 1)

/-- A finite value in units of 2^-149. -/
def f32Val (x : F32) : Int := if f32Neg x then -(f32Mag x : Int) else (f32Mag x : Int)

/-- The unit of `f32Mag`, as its reciprocal. -/
def f32Unit : Nat := 2 ^ 149

/-- The bits below the sign of the binary32 value nearest to `num/den` units, ties to even; `den > 0`. A value past
the largest finite one becomes an infinity, as round-to-nearest asks. The exponent is chosen so that the rounded
significand has 24 bits, or the exponent is the least one. -/
def f32Round (num den : Nat) : Nat :=
  let whole := num / den
  let k := if whole < 2 ^ 24 then 0 else Nat.log2 whole - 23
  let unit := den * 2 ^ k
  let n := num / unit
  let r := num % unit
  let n' := if 2 * r > unit then n + 1 else if 2 * r = unit then n + n % 2 else n
  min (k * 2 ^ 23 + n') (255 * 2 ^ 23)

/-- The binary32 value nearest to plus or minus `num/den` units. -/
def f32Pack (neg : Bool) (num den : Nat) : F32 :=
  BitVec.ofNat 32 ((if neg then 2 ^ 31 else 0) + f32Round num den)

/-- An infinity. -/
def f32Inf (neg : Bool) : F32 := if neg then 0xFF800000#32 else 0x7F800000#32

/-- A zero. -/
def f32Zero (neg : Bool) : F32 := if neg then 0x80000000#32 else 0x00000000#32

def f32One : F32 := 0x3F800000#32

def f32Two : F32 := 0x40000000#32

def f32MinusOne : F32 := 0xBF800000#32

/-- A quiet NaN whose sign and payload are free (log 14); `op` keeps the operations' free values apart. -/
def f32NaN (op : Nat) (a b : F32) : F32 := 0x7FC00000#32 ||| Config.nanBits op a b

/-- The sign changed: the other operand of a subtraction. -/
def f32Negate (x : F32) : F32 := x ^^^ 0x80000000#32

/-- The sign cleared (`|cw|`, R142). -/
def f32Abs (x : F32) : F32 := x &&& 0x7FFFFFFF#32

/-- The sum of two values that are no NaN; an exact zero sum is +0 unless both operands are negative. -/
def f32AddNumbers (op : Nat) (a b : F32) : F32 :=
  if f32IsInf a then (if f32IsInf b && f32Neg a != f32Neg b then f32NaN op a b else a)
  else if f32IsInf b then b
  else
    let v := f32Val a + f32Val b
    if v = 0 then f32Zero (f32Neg a && f32Neg b) else f32Pack (decide (v < 0)) v.natAbs 1

/-- `+f` (R11). -/
def f32Add (a b : F32) : F32 :=
  if f32IsNaN a || f32IsNaN b then f32NaN 0 a b else f32AddNumbers 0 a b

/-- `-f` (R11). -/
def f32Sub (a b : F32) : F32 :=
  if f32IsNaN a || f32IsNaN b then f32NaN 1 a b else f32AddNumbers 1 a (f32Negate b)

/-- `*f` (R11). -/
def f32Mul (a b : F32) : F32 :=
  let neg := f32Neg a != f32Neg b
  if f32IsNaN a || f32IsNaN b then f32NaN 2 a b
  else if f32IsInf a || f32IsInf b then (if f32IsZero a || f32IsZero b then f32NaN 2 a b else f32Inf neg)
  else f32Pack neg (f32Mag a * f32Mag b) f32Unit

/-- `/f` (R11). -/
def f32Div (a b : F32) : F32 :=
  let neg := f32Neg a != f32Neg b
  if f32IsNaN a || f32IsNaN b then f32NaN 3 a b
  else if f32IsInf a then (if f32IsInf b then f32NaN 3 a b else f32Inf neg)
  else if f32IsInf b then f32Zero neg
  else if f32IsZero b then (if f32IsZero a then f32NaN 3 a b else f32Inf neg)
  else f32Pack neg (f32Mag a * f32Unit) (f32Mag b)

/-- A number whose order is that of the binary32 values other than NaN, infinities included. -/
def f32Order (x : F32) : Int :=
  if f32Neg x then -((x.toNat % 2 ^ 31 : Nat) : Int) else ((x.toNat % 2 ^ 31 : Nat) : Int)

/-- `a < b`; false when either is NaN. -/
def f32Lt (a b : F32) : Bool := !f32IsNaN a && !f32IsNaN b && decide (f32Order a < f32Order b)

/-- The value nearest to `num/den`; `den > 0`. -/
def f32OfRatio (num : Int) (den : Nat) : F32 := f32Pack (decide (num < 0)) (num.natAbs * f32Unit) den

/-- `f32(n)`: the value nearest to an integer (R11). -/
def f32OfInt (n : Int) : F32 := f32Pack (decide (n < 0)) (n.natAbs * f32Unit) 1

/-- An integer with a sign put on it. -/
def signed (neg : Bool) (n : Nat) : Int := if neg then -(n : Int) else (n : Int)

/-- `round(x)`: the nearest integer, halves away from zero (R11, D25); a free value for a NaN or an infinity, which has
none (log 16). -/
def f32RoundAway (x : F32) : Int :=
  if f32Finite x then signed (f32Neg x) ((2 * f32Mag x + f32Unit) / (2 * f32Unit)) else Config.roundOfNonFinite x

/-- `trunc(x)`: the integer part of a finite value (R11). -/
def f32Trunc (x : F32) : Int := signed (f32Neg x) (f32Mag x / f32Unit)

/-- NaN, infinite, or of magnitude `2^31` or more: what a vertex coordinate may not be (R144). -/
def f32OutOfInt32 (x : F32) : Bool := !f32Finite x || decide (2 ^ 31 * f32Unit ≤ f32Mag x)

end Sys2Proof.Machine
end

