-- ==== Sys2Proof/Machine/Crc.lean ====
section
/-! DEFINITION. The CRC-16/CCITT of spec/40_crc.md: one byte in either bit order, and the checksum of a byte list. -/

namespace Sys2Proof.Machine

/-- One bit of `crc_step`, most significant first (R76). -/
def crcBit (c : Word16) : Word16 := if c.msb then (c <<< 1) ^^^ Config.crcPoly else c <<< 1

/-- One bit of the reflected `crc_step` (R77). -/
def crcBitReflected (c : Word16) : Word16 :=
  if c.getLsbD 0 then (c >>> 1) ^^^ Config.crcPolyReflected else c >>> 1

/-- `n` repetitions of a bit step. -/
def crcBits (bit : Word16 → Word16) : Nat → Word16 → Word16
  | 0, c => c
  | n + 1, c => crcBits bit n (bit c)

/-- `crc_step(c, b)` in the bit order the flag `CRC_REFLECTED` names (R76, R77). -/
def crcStep (reflected : Bool) (c : Word16) (b : Byte) : Word16 :=
  if reflected then crcBits crcBitReflected 8 (c ^^^ b.setWidth 16)
  else crcBits crcBit 8 (c ^^^ (b.setWidth 16 <<< 8))

/-- The accumulator after further bytes. -/
def crcOver (reflected : Bool) (c : Word16) : List Byte → Word16
  | [] => c
  | b :: bs => crcOver reflected (crcStep reflected c b) bs

/-- `crc16(bytes)` (R76): no final XOR. -/
def crc16 (reflected : Bool) (bs : List Byte) : Word16 := crcOver reflected Config.crcSeed bs

end Sys2Proof.Machine
end

