-- ==== Sys2Proof/Machine/Bits.lean ====
section
/-! DEFINITION. Byte order (spec/20_memory.md R42), the little-endian bit string of a stored line (R43, R126, R162) and
the pixel value of a color (R124). -/

namespace Sys2Proof.Machine

/-- `le16(b0, b1) = b0 + 256*b1` (R42). -/
def le16 (b0 b1 : Byte) : Word16 := b1 ++ b0

/-- The 32-bit field sent as `b0, b1, b2, b3` (R42). -/
def le32 (b0 b1 b2 b3 : Byte) : BitVec 32 := b3 ++ (b2 ++ (b1 ++ b0))

/-- The two bytes of a 16-bit field in wire order (R42). -/
def le16bytes (w : Word16) : List Byte := [w.extractLsb' 0 8, w.extractLsb' 8 8]

/-- The four bytes of a 32-bit field in wire order (R42). -/
def le32bytes (w : BitVec 32) : List Byte :=
  [w.extractLsb' 0 8, w.extractLsb' 8 8, w.extractLsb' 16 8, w.extractLsb' 24 8]

/-- `color mod 2^d`: the pixel value of a 16-bit color at depth `d` (R124). -/
def pixelValue (d : Nat) (c : Pixel) : Pixel := BitVec.ofNat 16 (c.toNat % 2 ^ d)

/-- The bit string of a line as a number, pixel 0 in the lowest bits (R43). -/
def bitString (d : Nat) : List Pixel → Nat
  | [] => 0
  | p :: ps => p.toNat % 2 ^ d + 2 ^ d * bitString d ps

/-- The first `n` bytes of a bit string, lowest first (R43). -/
def bytesOfString : Nat → Nat → List Byte
  | 0, _ => []
  | n + 1, v => BitVec.ofNat 8 v :: bytesOfString n (v / 256)

/-- The bit string that a byte list holds, lowest byte first (R43). -/
def stringOfBytes : List Byte → Nat
  | [] => 0
  | b :: bs => b.toNat + 256 * stringOfBytes bs

/-- The first `n` pixels of a bit string at depth `d` (R162). -/
def pixelsOfString (d : Nat) : Nat → Nat → List Pixel
  | 0, _ => []
  | n + 1, v => BitVec.ofNat 16 (v % 2 ^ d) :: pixelsOfString d n (v / 2 ^ d)

/-- `stride(W, d) = ceil(W*d / 8)`, the bytes of a stored line (R149). -/
def stride (width d : Nat) : Nat := (width * d + 7) / 8

/-- `pack(lb)`: the stored form of a line (R126); bits beyond the last pixel are 0 (R43). -/
def pack (d : Nat) (lb : List Pixel) : List Byte := bytesOfString (stride lb.length d) (bitString d lb)

/-- `unpack(bytes)`: the `n` pixels that stored bytes hold (R162). -/
def unpack (d n : Nat) (bs : List Byte) : List Pixel := pixelsOfString d n (stringOfBytes bs)

end Sys2Proof.Machine
end

