-- ==== Sys2Proof/Machine/Tables.lean ====
section
/-! DEFINITION. Tables with number keys, held as lists of pairs whose keys strictly rise: external memory (R31) and the
handler table (R25). Equal tables are equal lists. -/

namespace Sys2Proof.Machine

/-- What a key is mapped to. -/
def tableGet {α : Type} (k : Nat) : List (Nat × α) → Option α
  | [] => none
  | (k', v) :: rest => if k = k' then some v else tableGet k rest

/-- The table with one entry written; the keys stay rising. -/
def tablePut {α : Type} (k : Nat) (v : α) : List (Nat × α) → List (Nat × α)
  | [] => [(k, v)]
  | (k', v') :: rest =>
    if k < k' then (k, v) :: (k', v') :: rest
    else if k = k' then (k, v) :: rest
    else (k', v') :: tablePut k v rest

/-- Every key of the table is above `k`. -/
def tableAbove {α : Type} (k : Nat) : List (Nat × α) → Bool
  | [] => true
  | (k', _) :: rest => decide (k < k') && tableAbove k rest

/-- The keys strictly rise. -/
def tableRising {α : Type} : List (Nat × α) → Bool
  | [] => true
  | (k, _) :: rest => tableAbove k rest && tableRising rest

end Sys2Proof.Machine
end

