-- ==== Sys2Proof/Machine/Boot.lean ====
section
/-! DEFINITION. What boot leaves (spec/70_reset_and_hazards.md R192): the handler table and the initial mode. -/

namespace Sys2Proof

open Sys2Proof.Machine

/-- The id byte of a command under an `ID_MAP` (R62, R9). -/
def IdMap.idOf (m : IdMap) : CommandKind → Byte
  | .modeChange => m.modeChange
  | .setPixel => m.setPixel
  | .drawLine => m.drawLine
  | .drawTriangle => m.drawTriangle
  | .clearScreen => m.clearScreen
  | .swapBuffer => m.swapBuffer
  | .beginPrimitives => m.beginPrimitives
  | .endPrimitives => m.endPrimitives
  | .writeVertex => m.writeVertex
  | .setPerspective => m.setPerspective
  | .infoRequest => m.infoRequest

end Sys2Proof

namespace Sys2Proof.Machine

/-- The commands boot registers, in the order of R62 (R192). -/
def CommandKind.all : List CommandKind :=
  [.modeChange, .setPixel, .drawLine, .drawTriangle, .clearScreen, .swapBuffer, .beginPrimitives, .endPrimitives,
   .writeVertex, .setPerspective, .infoRequest]

/-- The handler table as boot leaves it (R192): every command under its id, INFO_RESPONSE under none. -/
def bootHandlers (ids : IdMap) : List (Nat × CommandKind) :=
  CommandKind.all.foldl (fun table k => tablePut (ids.idOf k).toNat k table) []

/-- The identity matrix (R189). -/
def Mat4.identity : Mat4 :=
  { r0 := ⟨0x3F800000#32, 0#32, 0#32, 0#32⟩, r1 := ⟨0#32, 0x3F800000#32, 0#32, 0#32⟩
    r2 := ⟨0#32, 0#32, 0x3F800000#32, 0#32⟩, r3 := ⟨0#32, 0#32, 0#32, 0x3F800000#32⟩ }

/-- Graphic3D's own fields on entering the mode: identity, empty, `Idle`, 0.0 (R112, R192). -/
def Scene.fresh : Scene := { proj := Mat4.identity, mesh := [], meshState := .idle, angle := 0#32 }

/-- `mode <- INITIAL_MODE`, with the Graphic3D fields as R192 sets them. -/
def Mode.boot : Mode → Mode
  | .graphic3D g _ => .graphic3D g Scene.fresh
  | .graphic2D g => .graphic2D g
  | .text w h f => .text w h f

end Sys2Proof.Machine
end

