-- ==== Sys2Proof/Machine/Operands.lean ====
section
/-! DEFINITION. Operand assembly (spec/30_encoding.md R72, spec/43_dispatcher.md R108): the bytes a handler reads from
a message's payload, and the fields it assembles from them. -/

namespace Sys2Proof.Machine

/-- `n_k`: the length of a command's payload struct (R62). -/
def CommandKind.size : CommandKind → Nat
  | .modeChange => 8
  | .setPixel => 6
  | .drawLine => 10
  | .drawTriangle => 14
  | .clearScreen => 2
  | .swapBuffer => 0
  | .beginPrimitives => 0
  | .endPrimitives => 0
  | .writeVertex => 14
  | .setPerspective => 16
  | .infoRequest => 0

/-- The length of INFO_RESPONSE's payload (R71). -/
def infoResponseSize : Nat := 8

/-- `p[i]` for `i < n` (R108): the payload's byte where the slot holds one, else a stale byte, a draw (R102). -/
def commandBytes (stale : Nat → Byte) (payload : List (Option Byte)) (n : Nat) : List Byte :=
  (List.range n).map fun i => (payload.getD i none).getD (stale i)

/-- A `u8` field (R72). -/
def u8At (p : List Byte) (o : Nat) : Byte := p.getD o 0#8

/-- A `u16` field (R72). -/
def u16At (p : List Byte) (o : Nat) : Word16 := le16 (u8At p o) (u8At p (o + 1))

/-- An `f32` field (R72). -/
def f32At (p : List Byte) (o : Nat) : F32 := le32 (u8At p o) (u8At p (o + 1)) (u8At p (o + 2)) (u8At p (o + 3))

/-- A `u16` coordinate as an `Int`, zero-extended (R72). -/
def coord (w : Word16) : Int := (w.toNat : Int)

/-- `u16(v)` of an `Int`: modulo `2^16` (R10). -/
def u16 (v : Int) : Word16 := BitVec.ofInt 16 v

end Sys2Proof.Machine
end

