-- ==== Sys2Proof/Syntax.lean ====
section
/-! DEFINITION. The instruction set: one constructor for each row of spec/opcode_table.json. Wire packets carry the
fields of spec/30_encoding.md R63 to R71, assembled; internal operations carry the operands of their rules. -/

namespace Sys2Proof

open Sys2Proof.Machine

/-- The stream an INFO_RESPONSE packet stands on (R123; log 19). -/
inductive Direction where
  /-- On `tx`: the block sends it. -/
  | toHost
  /-- On `rx`: the Host has sent it to the block. -/
  | toBlock
deriving DecidableEq, Repr, Inhabited

/-- A point with integer coordinates (R128). -/
structure Point where
  x : Int
  y : Int
deriving DecidableEq, Repr, Inhabited

/-- The 36 rows of the table, in its order. -/
inductive Instr where
  -- wire packets
  | modeChange (mode : Byte) (width height : Word16) (depth palette font : Byte)
  | setPixel (x y : Word16) (color : Pixel)
  | drawLine (x0 y0 x1 y1 : Word16) (color : Pixel)
  | drawTriangle (x0 y0 x1 y1 x2 y2 : Word16) (color : Pixel)
  | clearScreen (color : Pixel)
  | swapBuffer
  | beginPrimitives
  | endPrimitives
  | writeVertex (x y z : F32) (color : Pixel)
  | setPerspective (viewAngle aspect zNear zFar : F32)
  | infoRequest
  | infoResponse (dir : Direction) (mode : Byte) (width height : Word16) (depth readId writeId : Byte)
  | unknownId (id : Byte) (payload : List Byte)
  -- the CRC unit
  | crcStep (b : Byte)
  | crcReset
  | crcRead
  | crcCheck
  -- the link framer
  | arm (target : Target) (n : Nat)
  | deliver
  | transferComplete
  -- the message queue
  | allocSlot
  | store
  | drop
  | pop
  -- the dispatcher
  | register (id : Byte) (kind : CommandKind)
  | dispatch
  -- the rasterizer and the 3D pipeline
  | addTriangle (v0 v1 v2 : Point) (color : Pixel)
  | render
  | flatten
  -- the FrameStore
  | writeLine (y : Nat) (data : List Byte)
  | readLine (y n : Nat)
  | swap
  -- context B, and A's side of the tick
  | getSlot
  | scanlineRead
  | submit
  | renderTick
deriving DecidableEq, Repr, Inhabited

end Sys2Proof
end

