-- ==== Sys2Proof/WellFormed.lean ====
section
/-! DEFINITION. Which instructions are well formed: the limits spec/ sets on operands that their types do not set. -/

namespace Sys2Proof

open Sys2Proof.Machine

/-- The bytes a target buffer holds (R20, R23): token 1, header 2, CRC 2, payload 32. -/
def Machine.Target.capacity : Target → Nat
  | .tok => 1
  | .hdr => 2
  | .crc => 2
  | .pay => Config.maxPayload

/-- `id` is none of the twelve ids of the map (R62, R109). -/
def IdMap.lacks (m : IdMap) (id : Byte) : Bool :=
  !(id == m.modeChange || id == m.setPixel || id == m.drawLine || id == m.drawTriangle || id == m.clearScreen
    || id == m.swapBuffer || id == m.beginPrimitives || id == m.endPrimitives || id == m.writeVertex
    || id == m.setPerspective || id == m.infoRequest || id == m.infoResponse)

/-- The twelve ids of a map, in the order of R62. -/
def IdMap.toList (m : IdMap) : List Byte :=
  [m.modeChange, m.setPixel, m.drawLine, m.drawTriangle, m.clearScreen, m.swapBuffer, m.beginPrimitives,
   m.endPrimitives, m.writeVertex, m.setPerspective, m.infoRequest, m.infoResponse]

/-- What R62 asks of an `ID_MAP`: injective, never `0xFF`. -/
def IdMap.legal (m : IdMap) : Bool :=
  decide m.toList.Nodup && !m.toList.contains 0xFF#8

/-- Well-formedness under a wire format: an unknown id is none of the commands' and its payload is at most 32 bytes
(R59, R109); an armed length is at least 1 (R83) and fits its buffer (R20); `register` has no slot for `0xFF` (R105). -/
def Instr.wellFormed (w : Wire) : Instr → Bool
  | .unknownId id payload => w.ids.lacks id && payload.length ≤ Config.maxPayload
  | .arm target n => 1 ≤ n && n ≤ target.capacity
  | .register id _ => id != 0xFF#8
  | .modeChange .. | .setPixel .. | .drawLine .. | .drawTriangle .. | .clearScreen .. | .swapBuffer
  | .beginPrimitives | .endPrimitives | .writeVertex .. | .setPerspective .. | .infoRequest | .infoResponse ..
  | .crcStep _ | .crcReset | .crcRead | .crcCheck | .deliver | .transferComplete | .allocSlot | .store | .drop
  | .pop | .dispatch | .addTriangle .. | .render | .flatten | .writeLine .. | .readLine .. | .swap | .getSlot
  | .scanlineRead | .submit | .renderTick => true

end Sys2Proof
end

