-- ==== Sys2Proof/Decode.lean ====
section
/-! DEFINITION. Packets of spec/30_encoding.md: the decoder, total on any bytes, and the encoder. Internal operations
have no wire encoding. Bytes that a short payload leaves out are stale content (R102): the decoder takes them as an
argument, and Machine/Dispatcher.lean gives it free values. -/

namespace Sys2Proof

open Sys2Proof.Machine

/-- Why bytes are no packet (R60, R73). -/
inductive DecodeError where
  /-- The first byte is not `0x7E`. -/
  | noStartToken
  /-- The packet's bytes have not all arrived. -/
  | truncated
  | badHeaderCrc
  /-- `size` is above 32. -/
  | oversize
  | badPayloadCrc
deriving DecidableEq, Repr, Inhabited

/-- The command whose id this is (R62). -/
def kindOfId (ids : IdMap) (id : Byte) : Option CommandKind := CommandKind.all.find? fun k => ids.idOf k == id

/-- The instruction of a command with the payload bytes `p` (R63 to R70). -/
def instrOf (k : CommandKind) (p : List Byte) : Instr :=
  match k with
  | .modeChange => .modeChange (u8At p 0) (u16At p 1) (u16At p 3) (u8At p 5) (u8At p 6) (u8At p 7)
  | .setPixel => .setPixel (u16At p 0) (u16At p 2) (u16At p 4)
  | .drawLine => .drawLine (u16At p 0) (u16At p 2) (u16At p 4) (u16At p 6) (u16At p 8)
  | .drawTriangle =>
    .drawTriangle (u16At p 0) (u16At p 2) (u16At p 4) (u16At p 6) (u16At p 8) (u16At p 10) (u16At p 12)
  | .clearScreen => .clearScreen (u16At p 0)
  | .swapBuffer => .swapBuffer
  | .beginPrimitives => .beginPrimitives
  | .endPrimitives => .endPrimitives
  | .writeVertex => .writeVertex (f32At p 0) (f32At p 4) (f32At p 8) (u16At p 12)
  | .setPerspective => .setPerspective (f32At p 0) (f32At p 4) (f32At p 8) (f32At p 12)
  | .infoRequest => .infoRequest

/-- The instruction of an INFO_RESPONSE payload (R71). -/
def infoResponseOf (dir : Direction) (p : List Byte) : Instr :=
  .infoResponse dir (u8At p 0) (u16At p 1) (u16At p 3) (u8At p 5) (u8At p 6) (u8At p 7)

/-- The instruction of a validated id and payload. `dir` is the stream they stand on; only INFO_RESPONSE tells the two
apart (R123). -/
def decodeMessage (w : Wire) (dir : Direction) (stale : Nat → Byte) (id : Byte) (payload : List Byte) : Instr :=
  if id = w.ids.infoResponse then infoResponseOf dir (commandBytes stale (payload.map some) infoResponseSize)
  else
    match kindOfId w.ids id with
    | some k => instrOf k (commandBytes stale (payload.map some) k.size)
    | none => .unknownId id payload

/-- The part of a packet after a valid header (R59, R60). -/
def decodeBody (w : Wire) (dir : Direction) (stale : Nat → Byte) (id size : Byte) (rest : List Byte) :
    Except DecodeError (Instr × List Byte) :=
  if size = 0#8 then .ok (decodeMessage w dir stale id [], rest)
  else
    match rest.drop size.toNat with
    | c0 :: c1 :: rest' =>
      if crc16 w.crcReflected (rest.take size.toNat) = le16 c0 c1 then
        .ok (decodeMessage w dir stale id (rest.take size.toNat), rest')
      else .error .badPayloadCrc
    | _ => .error .truncated

/-- The packet at the head of a byte list, with the bytes after it (R59, R60, R73). -/
def decode (w : Wire) (dir : Direction) (stale : Nat → Byte) : List Byte → Except DecodeError (Instr × List Byte)
  | token :: id :: size :: h0 :: h1 :: rest =>
    if token ≠ Config.startToken then .error .noStartToken
    else if crc16 w.crcReflected [id, size] ≠ le16 h0 h1 then .error .badHeaderCrc
    else if Config.maxPayload < size.toNat then .error .oversize
    else decodeBody w dir stale id size rest
  | token :: _ => if token ≠ Config.startToken then .error .noStartToken else .error .truncated
  | [] => .error .truncated

/-! ### The encoder -/

/-- `packet(id, r)` (R59, R123): a payload CRC only where there is a payload (90_conflicts.md C1). -/
def packet (w : Wire) (id : Byte) (r : List Byte) : List Byte :=
  let size : Byte := BitVec.ofNat 8 r.length
  [Config.startToken, id, size] ++ le16bytes (crc16 w.crcReflected [id, size])
    ++ (if r.isEmpty then [] else r ++ le16bytes (crc16 w.crcReflected r))

/-- The payload of an INFO_RESPONSE (R71). -/
def infoResponseBytes (mode : Byte) (width height : Word16) (depth readId writeId : Byte) : List Byte :=
  [mode] ++ le16bytes width ++ le16bytes height ++ [depth, readId, writeId]

/-- The id and payload of a wire packet (R62 to R71); an internal operation has none. -/
def encodeMessage (w : Wire) : Instr → Option (Byte × List Byte)
  | .modeChange mode width height depth palette font =>
    some (w.ids.modeChange, [mode] ++ le16bytes width ++ le16bytes height ++ [depth, palette, font])
  | .setPixel x y color => some (w.ids.setPixel, le16bytes x ++ le16bytes y ++ le16bytes color)
  | .drawLine x0 y0 x1 y1 color =>
    some (w.ids.drawLine, le16bytes x0 ++ le16bytes y0 ++ le16bytes x1 ++ le16bytes y1 ++ le16bytes color)
  | .drawTriangle x0 y0 x1 y1 x2 y2 color =>
    some (w.ids.drawTriangle, le16bytes x0 ++ le16bytes y0 ++ le16bytes x1 ++ le16bytes y1 ++ le16bytes x2
      ++ le16bytes y2 ++ le16bytes color)
  | .clearScreen color => some (w.ids.clearScreen, le16bytes color)
  | .swapBuffer => some (w.ids.swapBuffer, [])
  | .beginPrimitives => some (w.ids.beginPrimitives, [])
  | .endPrimitives => some (w.ids.endPrimitives, [])
  | .writeVertex x y z color =>
    some (w.ids.writeVertex, le32bytes x ++ le32bytes y ++ le32bytes z ++ le16bytes color)
  | .setPerspective viewAngle aspect zNear zFar =>
    some (w.ids.setPerspective, le32bytes viewAngle ++ le32bytes aspect ++ le32bytes zNear ++ le32bytes zFar)
  | .infoRequest => some (w.ids.infoRequest, [])
  | .infoResponse _ mode width height depth readId writeId =>
    some (w.ids.infoResponse, infoResponseBytes mode width height depth readId writeId)
  | .unknownId id payload => some (id, payload)
  | .crcStep _ | .crcReset | .crcRead | .crcCheck | .arm .. | .deliver | .transferComplete | .allocSlot | .store
  | .drop | .pop | .register .. | .dispatch | .addTriangle .. | .render | .flatten | .writeLine .. | .readLine ..
  | .swap | .getSlot | .scanlineRead | .submit | .renderTick => none

/-- The bytes of a packet on the wire (R59); an internal operation has none. -/
def encode (w : Wire) (i : Instr) : Option (List Byte) := (encodeMessage w i).map fun m => packet w m.1 m.2

/-- The stream a packet is written for: INFO_RESPONSE carries its own, the others go to the block (R62). -/
def Instr.direction : Instr → Direction
  | .infoResponse dir .. => dir
  | .modeChange .. | .setPixel .. | .drawLine .. | .drawTriangle .. | .clearScreen .. | .swapBuffer
  | .beginPrimitives | .endPrimitives | .writeVertex .. | .setPerspective .. | .infoRequest | .unknownId ..
  | .crcStep _ | .crcReset | .crcRead | .crcCheck | .arm .. | .deliver | .transferComplete | .allocSlot | .store
  | .drop | .pop | .register .. | .dispatch | .addTriangle .. | .render | .flatten | .writeLine .. | .readLine ..
  | .swap | .getSlot | .scanlineRead | .submit | .renderTick => .toBlock

/-! ### Words of the opcode table

The table reads a packet's bytes as one big-endian number: byte 0, the token, is bits 15..8 of its 16 (the note of each
row). It gives the framing after the id no bits, so a word stands for the packet whose payload has the row's nominal
size, with every payload bit the word lacks 0, and with the CRCs that make it a packet (log 21). -/

/-- The bytes of a table word, first byte in its highest bits. -/
def tableBytes (nbits w : Nat) : List Byte :=
  (List.range (nbits / 8)).map fun i => BitVec.ofNat 8 (w / 2 ^ (nbits - 8 * (i + 1)))

/-- The nominal `size` of a packet with this id (the table's fields, R62); 0 for an unassigned id. -/
def nominalSize (ids : IdMap) (id : Byte) : Nat :=
  if id = ids.infoResponse then infoResponseSize else ((kindOfId ids id).map CommandKind.size).getD 0

/-- The payload of a table word: its own bytes from offset 5 on, and zeros. -/
def tablePayload (ids : IdMap) (nbits w : Nat) : List Byte :=
  let bs := tableBytes nbits w
  let n := nominalSize ids (u8At bs 1)
  (bs.drop 5 ++ List.replicate n 0#8).take n

/-- The packet of a table word: the word's own token and id, the rest as R59 lays it out. -/
def tablePacket (nbits w : Nat) : List Byte :=
  let bs := tableBytes nbits w
  u8At bs 0 :: (packet Wire.spec (u8At bs 1) (tablePayload IdMap.table nbits w)).drop 1

/-- The instruction the decoder reads from a table word. -/
def decodeTableWord (nbits w : Nat) : Option Instr :=
  match decode Wire.spec .toBlock Config.freeByte (tablePacket nbits w) with
  | .ok (i, _) => some i
  | .error _ => none

end Sys2Proof
end

