-- ==== Sys2Proof/Machine/State.lean ====
section
/-! DEFINITION. The state of the block (spec/10_state.md), the reasons a step can stop, and reset (R189, R192). -/

namespace Sys2Proof.Machine

/-- Why a step stops with a fault. -/
inductive Fault where
  /-- Raised by `step` alone, never by an instruction: the sticky fault of R169 is set, so no agent has a step (X1).
  Safe: the spec says the block has stopped. -/
  | halted (f : FaultInfo)
deriving DecidableEq, Repr, Inhabited

/-- Why a step is refused. -/
inductive Refusal where
  /-- Raised by an arm of `exec` whose instruction has no meaning yet. Safe. -/
  | notModelled (mnemonic : String)
  /-- Raised by `step` alone: the refusal mark of R171 is set, so no agent has a step. Safe: the spec gives the run no
  meaning from there. -/
  | marked (r : RefusalName)
deriving DecidableEq, Repr, Inhabited

/-- Everything the spec gives the machine, and the model's own fields at the end. -/
structure State where
  /-- The parameters of R9, fixed by every step (log 4). -/
  params : Params
  -- link side (R17 to R23)
  rx : List Byte
  tx : List Byte
  frPhase : FramerPhase
  frArmed : Option (Target × Nat)
  frFilled : Nat
  frTok : Byte
  frCrc0 : Byte
  frCrc1 : Byte
  crcAcc : Word16
  frExpected : Word16
  frSlot : Option InFlight
  -- queue and dispatcher (R24, R25)
  q : List Message
  /-- The filled slots of the handler table, ids rising (log 28). -/
  handlers : List (Nat × CommandKind)
  -- render mode and primitives (R26 to R29)
  mode : Mode
  prims : List Primitive
  clearColor : Pixel
  lb : List Pixel
  -- FrameStore and memory (R30 to R32)
  readId : PlaneId
  writeId : PlaneId
  /-- The bytes written since reset, addresses rising (R31; log 5). -/
  ext : List Host.Cell
  bus : Bus
  -- the two contexts (R33 to R37)
  lock : Lock
  tickReq : Bool
  tickDone : Bool
  aPhase : APhase
  /-- The message `pop` has returned and `dispatch` has not yet run (R106; log 8). -/
  aMsg : Option Message
  bPhase : BPhase
  bSlot : Option Slot
  bPixels : List Pixel
  /-- The palette of the mode under which B read its line: the depth whose table it uses, or none (R180; log 18). -/
  bPalette : Option Depth
  dispNext : Slot
  -- observable outputs and marks (R38, R39)
  log : List LogEvent
  video : List (Slot × ScanlineCmd)
  fault : Option FaultInfo
  refused : Option RefusalName
  -- the model's own
  /-- What the last value-returning operation returned (log 9). -/
  ret : Returned
  /-- How many free values have been drawn (log 6). -/
  draws : Nat
  /-- Which agents act next (log 1). -/
  sched : List Turn
deriving DecidableEq, Repr

/-- The state after power-on reset and boot for given parameters (R189, R192; the unspecified values are log 7). -/
def State.resetWith (p : Params) : State :=
  { params := p
    rx := [], tx := [], frPhase := .init, frArmed := none, frFilled := 0
    frTok := Config.resetTok, frCrc0 := Config.resetCrc0, frCrc1 := Config.resetCrc1
    crcAcc := Config.crcSeed, frExpected := Config.resetExpected, frSlot := none
    q := [], handlers := bootHandlers p.wire.ids
    mode := p.initialMode.boot, prims := [], clearColor := 0#16
    lb := (List.range p.initialMode.width.toNat).map Config.resetLine
    readId := .zero, writeId := .one, ext := [], bus := .free
    lock := .free, tickReq := false, tickDone := false, aPhase := .idle, aMsg := none
    bPhase := .getSlot, bSlot := none
    bPixels := (List.range p.initialMode.width.toNat).map Config.resetPixels, bPalette := none
    dispNext := { frame := 0, phys := 0 }
    log := [], video := [], fault := none, refused := none
    ret := .nothing, draws := 0, sched := [] }

/-- Reset under the default configuration of spec/95_test_vectors.md (log 4). -/
def State.reset : State := State.resetWith Params.vectors

end Sys2Proof.Machine
end

