-- ==== Sys2Proof/Machine/Ops.lean ====
section
/-! DEFINITION. The named operations over the state that the meanings share: raising a fault (the block's only
exception: spec/60_exceptions.md R169; there is no return from one, R177), refusing, logging, the lock, the bus,
external memory, draws, the byte channel, the message slots and the transmit stream. -/

namespace Sys2Proof.Machine

/-! ### Stopping (R169, R171) and waiting (R13) -/

/-- `raise Fault(name, info)` (R169): the sticky fault is set; what the step did before stays. -/
def State.raise (f : FaultInfo) (s : State) : State := { s with fault := some f }

/-- `refuse(name)` (R171). -/
def State.refuse (r : RefusalName) (s : State) : State := { s with refused := some r }

/-- A step on its way: `ok` goes on, `error` has raised or refused and holds the state at that point (R169). -/
abbrev Flow := Except State State

/-- The state a step ends in, whether it ran to its end or was stopped (R169). -/
def flowEnd : Flow → State
  | .ok s => s
  | .error s => s

/-- The outcome of an operation that either has a step or waits: with no step nothing changes (R13; log 2). -/
def stepOrWait (s : State) (o : Option State) : Host.Outcome State Fault Refusal := .next (o.getD s)

/-- `log(event)` (R173). -/
def State.logEvent (e : LogEvent) (s : State) : State := { s with log := s.log ++ [e] }

/-! ### The lock and the bus (R51, R32, R47) -/

/-- `acquire(L)` (R51): no step unless the lock is free. -/
def acquireLock (g : Ctx) (s : State) : Option State :=
  if s.lock = .free then some { s with lock := .held g } else none

/-- `release(L)` (R51). -/
def releaseLock (g : Ctx) (s : State) : State :=
  if s.lock = .held g then { s with lock := .free } else s.refuse .releaseNotHeld

/-- `acquire()` of the bus has a step: no other agent holds it (R47). -/
def busReady (g : Agent) (s : State) : Bool := s.bus == .free || s.bus == .held g

/-- The bus taken for a line transfer (R47). -/
def State.takeBus (g : Agent) (s : State) : State := { s with bus := .held g }

/-- The bus given back (R47). -/
def State.freeBus (s : State) : State := { s with bus := .free }

/-! ### External memory (R31, R45) -/

/-- The canonical form of memory: addresses strictly rise. An address is listed exactly when a write has set it. -/
def Memory.wf (m : List Host.Cell) : Bool := tableRising m

/-- What an unlisted address reads as in the list: no value (log 5); `extByte` puts the unspecified byte there. -/
def Memory.unlisted : Option Byte := none

/-- A byte of external memory: the byte written, or the address's unspecified reset value (R31, R45). -/
def extByte (s : State) (a : Nat) : Byte := (tableGet a s.ext).getD (Config.extReset a)

/-- Bytes written at rising addresses. -/
def putBytes (a : Nat) : List Byte → List Host.Cell → List Host.Cell
  | [], m => m
  | b :: bs, m => putBytes (a + 1) bs (tablePut a b m)

/-- The memory replaced. -/
def State.withExt (m : List Host.Cell) (s : State) : State := { s with ext := m }

/-- `MemWrite(a, n, v)` (R45). -/
def memWrite (a : Nat) (v : List Byte) (s : State) : Flow :=
  if s.params.extMemSize < a + v.length then .error (s.raise (.extMemRange a))
  else .ok (s.withExt (putBytes a v s.ext))

/-- `MemRead(a, n)` (R45). -/
def memRead (a n : Nat) (s : State) : Except State (List Byte) :=
  if s.params.extMemSize < a + n then .error (s.raise (.extMemRange a))
  else .ok ((List.range n).map fun i => extByte s (a + i))

/-! ### The schedule (log 1) -/

/-- Whose turn it is, and the state with that turn used up: the head of the schedule, or a free choice. -/
def takeTurn (s : State) : Turn × State :=
  match s.sched with
  | t :: rest => (t, { s with sched := rest })
  | [] => (Config.freeTurn s.draws, { s with draws := s.draws + 1 })

/-! ### The CRC accumulator (R78, R79) -/

/-- A byte taken into the accumulator (R78). -/
def State.crcByte (b : Byte) (s : State) : State :=
  { s with crcAcc := crcStep s.params.wire.crcReflected s.crcAcc b }

/-- `reset()` of the accumulator (R79). -/
def State.crcClear (s : State) : State := { s with crcAcc := Config.crcSeed }

/-! ### The byte channel (R83, R84) -/

/-- `arm(target, n)` (R83). DESIGN CHOICE (unsafe, log 34): a length no buffer has (0, or above R20's) is armed as it is. -/
def State.arm (t : Target) (n : Nat) (s : State) : State := { s with frArmed := some (t, n), frFilled := 0 }

/-- The in-flight slot with a byte in it: header byte `i` or payload byte `i` (R84); a payload byte past the payload's end is
put nowhere (DESIGN CHOICE, unsafe, log 34). -/
def InFlight.putByte (t : Target) (i : Nat) (b : Byte) (f : InFlight) : InFlight :=
  match t with
  | .hdr => if i = 0 then { f with id := some b } else { f with size := some b }
  | .pay => { f with payload := f.payload.set i (some b) }
  | .tok => f
  | .crc => f

/-- A byte put into the target buffer (R84). DESIGN CHOICE (unsafe, log 34): a byte that has no place there (CRC byte 2 or
above, payload byte 32 or above, a header or payload byte with no in-flight slot) is put nowhere; `deliver?` takes it from
`rx`, counts it and adds it to the CRC all the same. -/
def State.putTarget (t : Target) (b : Byte) (s : State) : State :=
  match t with
  | .tok => { s with frTok := b }
  | .crc =>
    if s.frFilled = 0 then { s with frCrc0 := b } else if s.frFilled = 1 then { s with frCrc1 := b } else s
  | .hdr => { s with frSlot := s.frSlot.map (InFlight.putByte .hdr s.frFilled b) }
  | .pay => { s with frSlot := s.frSlot.map (InFlight.putByte .pay s.frFilled b) }

/-! ### The message slots (R98 to R100) -/

/-- An empty payload of a slot. -/
def emptyPayload : List (Option Byte) := List.replicate Config.maxPayload none

/-- `alloc_slot()` (R98): a scratch slot when 32 messages wait. -/
def State.allocSlot (s : State) : State :=
  { s with
    frSlot := some { id := none, size := none, payload := emptyPayload,
                     discard := !decide (s.q.length < Config.queueCap) } }

/-- The message a slot becomes (R99); a header byte that was never written is a draw (R23; log 22). -/
def InFlight.toMessage (n : Nat) (f : InFlight) : Message :=
  { id := f.id.getD (Config.freeByte n), size := f.size.getD (Config.freeByte (n + 1)), payload := f.payload
    received := true }

/-- `store_slot()` (R99). -/
def State.storeSlot (s : State) : State :=
  match s.frSlot with
  | none => s
  | some f =>
    if f.discard then { s with frSlot := none }
    else
      { s with
        q := s.q ++ [f.toMessage s.draws], frSlot := none
        draws := if f.id.isSome && f.size.isSome then s.draws else s.draws + 2 }

/-- `drop_slot()` (R100). -/
def State.dropSlot (s : State) : State := { s with frSlot := none }

/-- The `size` byte of the in-flight slot as the framer reads it, and the state after the read: a byte that was never
written is a draw (R23; log 22). -/
def slotSize (s : State) : Byte × State :=
  match s.frSlot.bind InFlight.size with
  | some b => (b, s)
  | none => (Config.freeByte s.draws, { s with draws := s.draws + 1 })

/-! ### The transmit stream (R123) -/

/-- A packet put on `tx` (R123). -/
def State.send (id : Byte) (r : List Byte) (s : State) : State :=
  { s with tx := s.tx ++ packet s.params.wire id r }

/-! ### Buffer ids (R30, R155) -/

/-- The id byte of a plane (R71). -/
def PlaneId.byte : PlaneId → Byte
  | .zero => 0#8
  | .one => 1#8

/-- `swap()` (R155). -/
def State.swapIds (s : State) : State := { s with readId := s.writeId, writeId := s.readId }

end Sys2Proof.Machine
end

