-- ==== Sys2Proof/Machine/Flags.lean ====
section
/-! DEFINITION. The Boolean conditions the block computes (spec/10_state.md R40): the framer's guards (R87), the tests of
a mode (R112), of a primitive on a line (R129, R134), and of a stopped block (R169, R171). The block has no condition
codes. -/

namespace Sys2Proof.Machine

/-- `got_start_token` (R87). -/
def gotStartToken (s : State) : Bool := s.frTok == Config.startToken

/-- `crc_ok` (R81, R87). -/
def crcOk (s : State) : Bool := s.frExpected == le16 s.frCrc0 s.frCrc1

/-- `header_valid` of a size byte (R87). -/
def headerValid (size : Byte) : Bool := decide (size.toNat ≤ Config.maxPayload)

/-- `header_empty` of a size byte (R87). -/
def headerEmpty (size : Byte) : Bool := size == 0#8

/-- A fault or a refusal is set: no agent has a step (R169, R171). -/
def stopped (s : State) : Bool := s.fault.isSome || s.refused.isSome

/-- `graphic(mode)`: Graphic2D or Graphic3D (spec/43_dispatcher.md). -/
def isGraphic (m : Mode) : Bool := m.screen?.isSome

/-- `mode_code` (R122). -/
def modeCode : Mode → Byte
  | .text .. => 0#8
  | .graphic2D _ => 1#8
  | .graphic3D .. => 2#8

/-- `depth_or_0(mode)` (R122). -/
def depthOrZero (m : Mode) : Byte :=
  match m.screen? with
  | some g => BitVec.ofNat 8 g.depth.bits
  | none => 0#8

/-- The bytes of a stored line of a screen (R149). -/
def Screen.stride (g : Screen) : Nat := Machine.stride g.width.toNat g.depth.bits

/-- The palette a mode's pixels go through: the table for its depth, if it has one (R163). -/
def Screen.paletteDepth (g : Screen) : Option Depth := if g.palette then some g.depth else none

/-- Both planes of a screen fit (R48, R112). -/
def planesFit (p : Params) (g : Screen) : Bool :=
  decide (g.height.toNat * g.stride ≤ p.planeOffset)
    && decide (p.planeOffset + g.height.toNat * g.stride ≤ p.extMemSize)

/-- The screen MODE_CHANGE asks for, if its depth is legal and both planes fit (R112). -/
def legalScreen? (p : Params) (width height : Word16) (depth palette : Byte) : Option Screen :=
  match Depth.ofNat? depth.toNat with
  | none => none
  | some d =>
    let g : Screen := { width := width, height := height, depth := d, palette := palette != 0#8 }
    if planesFit p g then some g else none

/-- The mode MODE_CHANGE asks for, or `none` where its operands are not valid (R112). -/
def newMode? (p : Params) (mode : Byte) (width height : Word16) (depth palette font : Byte) : Option Mode :=
  if width = 0#16 ∨ height = 0#16 then none
  else
    match mode.toNat with
    | 0 => some (.text width height font)
    | 1 => (legalScreen? p width height depth palette).map .graphic2D
    | 2 => (legalScreen? p width height depth palette).map fun g => .graphic3D g Scene.fresh
    | _ => none

/-- A triangle covers line `y` (R129, R132). -/
def Tri.onLine (t : Tri) (y : Nat) : Bool := decide (t.minY.toNat ≤ y) && decide (y ≤ t.maxY.toNat)

/-- `retired(p, y)` (R134). -/
def retired (y : Nat) : Primitive → Bool
  | .tri t => decide (t.maxY.toNat ≤ y)
  | .span s => decide (s.y.toNat ≤ y)

end Sys2Proof.Machine
end

