-- ==== Sys2Proof/Machine/Raster.lean ====
section
/-! DEFINITION. The rasterizer's geometry (spec/44_rasterizer.md R125 to R131): slopes, prepared triangles, spans and
lines. -/

namespace Sys2Proof.Machine

/-- The order of the vertex sort: by `y`, then `x` (R128). -/
def pointLe (p r : Point) : Bool := decide (p.y < r.y) || (p.y == r.y && decide (p.x ≤ r.x))

/-- Two vertices in order. -/
def sortTwo (p r : Point) : Point × Point := if pointLe p r then (p, r) else (r, p)

/-- Three vertices in order (R128). -/
def sortThree (p r t : Point) : Point × Point × Point :=
  let (a, b) := sortTwo p r
  let (b, c) := sortTwo b t
  let (a, b) := sortTwo a b
  (a, b, c)

/-- `slope(P, Q)` (R127): a zero-height edge has its raw Δx. -/
def slope (p r : Point) : F32 :=
  if r.y ≠ p.y then f32Div (f32OfInt (r.x - p.x)) (f32OfInt (r.y - p.y)) else f32OfInt (r.x - p.x)

/-- The prepared triangle of three sorted vertices (R128). -/
def prepareSorted (a b c : Point) (color : Pixel) : Tri :=
  let dAB := slope a b
  let dAC := slope a c
  let ax := f32OfInt a.x
  let (longLeft, ex) :=
    if a.y = c.y then (true, f32OfInt c.x)
    else if a.y = b.y then (true, f32Add ax dAB)
    else (f32Lt dAC dAB, ax)
  { dx1 := dAB, dx2 := dAC, dx3 := slope b c, sx := ax, ex := ex
    minY := u16 a.y, midY := u16 b.y, maxY := u16 c.y, longLeft := longLeft, color := color }

/-- The prepared triangle of three vertices (R128). -/
def prepare (v0 v1 v2 : Point) (color : Pixel) : Tri :=
  let (a, b, c) := sortThree v0 v1 v2
  prepareSorted a b c color

/-- `add_triangle(v[3], color)` (R128). -/
def State.addTriangle (v0 v1 v2 : Point) (color : Pixel) (s : State) : State :=
  { s with prims := s.prims ++ [.tri (prepare v0 v1 v2 color)] }

/-- `add_triangle` (R128). -/
def execAddTriangle (v0 v1 v2 : Point) (color : Pixel) (s : State) : Host.Outcome State Fault Refusal :=
  .next (s.addTriangle v0 v1 v2 color)

/-- `put` at `n` places from `x` on, on line `y` of width `w` (R125): the first place outside the line faults, and the
pixels before it stay. -/
def putRun (w y : Nat) (c : Pixel) : Nat → Int → List Pixel → List Pixel × Option FaultInfo
  | 0, _, lb => (lb, none)
  | n + 1, x, lb =>
    if x < 0 ∨ (w : Int) ≤ x then (lb, some (.pixelOutOfRange x y))
    else putRun w y c n (x + 1) (lb.set x.toNat c)

/-- `for x in x0 .. x1: put(x, c)`: nothing when `x0 > x1` (R129, R130). -/
def putSpan (w y : Nat) (c : Pixel) (x0 x1 : Int) (lb : List Pixel) : List Pixel × Option FaultInfo :=
  putRun w y c (x1 - x0 + 1).toNat x0 lb

/-- The slopes of the left and right edges on line `y` (R129): the line `mid_y` is in the lower half. -/
def Tri.slopes (t : Tri) (y : Nat) : F32 × F32 :=
  let short := if y < t.midY.toNat then t.dx1 else t.dx3
  if t.longLeft then (t.dx2, short) else (short, t.dx2)

/-- The edges advanced past line `y` (R129). -/
def Tri.advance (t : Tri) (y : Nat) : Tri :=
  { t with sx := f32Add t.sx (t.slopes y).1, ex := f32Add t.ex (t.slopes y).2 }

/-- A primitive drawn on line `y` of a screen (R129, R130, R132): the line buffer, the fault if a pixel is out of range,
and the primitive as the line leaves it. -/
def drawPrimitive (g : Screen) (y : Nat) (lb : List Pixel) (p : Primitive) :
    List Pixel × Option FaultInfo × Primitive :=
  match p with
  | .tri t =>
    if t.onLine y then
      let (lb', f) :=
        putSpan g.width.toNat y (pixelValue g.depth.bits t.color) (f32RoundAway t.sx) (f32RoundAway t.ex) lb
      (lb', f, .tri (t.advance y))
    else (lb, none, p)
  | .span s =>
    if s.y.toNat = y then
      let (lb', f) := putSpan g.width.toNat y (pixelValue g.depth.bits s.color) s.x0 s.x1 lb
      (lb', f, p)
    else (lb, none, p)

/-- The steps of `bresenham` (R131); the fuel is the number of pixels. -/
def bresenhamFrom (x1 y1 dx dy stepx stepy : Int) : Nat → Int → Int → Int → List Point
  | 0, _, _, _ => []
  | fuel + 1, x, y, err =>
    ⟨x, y⟩ ::
      (if x = x1 ∧ y = y1 then []
       else
         let e2 := 2 * err
         let (err', x') := if dy ≤ e2 then (err + dy, x + stepx) else (err, x)
         let (err'', y') := if e2 ≤ dx then (err' + dx, y + stepy) else (err', y)
         bresenhamFrom x1 y1 dx dy stepx stepy fuel x' y' err'')

/-- `bresenham(x0, y0, x1, y1)` (R131). Each step moves along the longer axis, so the line has one pixel more than that
axis's distance. -/
def bresenham (x0 y0 x1 y1 : Int) : List Point :=
  let dx : Int := (x1 - x0).natAbs
  let dy : Int := -((y1 - y0).natAbs : Int)
  bresenhamFrom x1 y1 dx dy (if x0 < x1 then 1 else -1) (if y0 < y1 then 1 else -1)
    (max (x1 - x0).natAbs (y1 - y0).natAbs + 1) x0 y0 (dx + dy)

/-- The one-pixel span of a point (R113, R114). -/
def pointSpan (color : Pixel) (p : Point) : Primitive :=
  .span { y := u16 p.y, x0 := p.x, x1 := p.x, color := color }

end Sys2Proof.Machine
end

