-- ==== Sys2Proof/Machine/Tangent.lean ====
section
/-! DEFINITION. `tan32` (spec/45_pipeline_3d.md R145, U18): the binary32 value nearest to the real tangent. The
argument is reduced modulo pi and the sine and cosine are summed as Taylor series in fixed point with 640 fraction
bits; their quotient is then rounded once. That 640 bits are enough for every argument is UNVERIFIED (log 15). -/

namespace Sys2Proof.Machine

/-- One in fixed point. -/
def tanOne : Nat := 2 ^ 640

/-- pi in fixed point, rounded down. -/
def tanPi : Nat :=
  0x3243f6a8885a308d313198a2e03707344a4093822299f31d0082efa98ec4e6c89452821e638d01377be5466cf34e90c6cc0ac29b7c97c50dd3f84d5b5b54709179216d5d98979fb1bd1310ba698dfb5ac

/-- Terms `n`, `n+1`, ... of the series of the exponential of `i*r`: `t` is `r^n/n!`, and the even terms go to the
cosine, the odd ones to the sine, with alternating signs. -/
def sinCosTerms (r : Nat) : Nat → Nat → Nat → Int → Int → Int × Int
  | 0, _, _, sin, cos => (sin, cos)
  | fuel + 1, n, t, sin, cos =>
    let t' := t * r / (tanOne * (n + 1))
    if n % 4 = 0 then sinCosTerms r fuel (n + 1) t' sin (cos + t)
    else if n % 4 = 1 then sinCosTerms r fuel (n + 1) t' (sin + t) cos
    else if n % 4 = 2 then sinCosTerms r fuel (n + 1) t' sin (cos - t)
    else sinCosTerms r fuel (n + 1) t' (sin - t) cos

/-- Sine and cosine of `r` between 0 and pi/2, in fixed point. -/
def sinCos (r : Nat) : Int × Int := sinCosTerms r 160 0 tanOne 0 0

/-- `tan32(a)` (R145). The tangent is odd; modulo pi, an angle `r` above pi/2 has the tangent of `-(pi - r)`. A zero
keeps its sign, as IEEE 754 has it. -/
def tan32 (a : F32) : F32 :=
  if !f32Finite a then Config.tanOfNonFinite a
  else if f32IsZero a then a
  else
    let r := f32Mag a * 2 ^ 491 % tanPi
    let flip := decide (tanPi < 2 * r)
    let sc := sinCos (if flip then tanPi - r else r)
    f32Pack (f32Neg a != flip) (sc.1.toNat * f32Unit) sc.2.toNat

end Sys2Proof.Machine
end

