-- ==== Sys2Proof/Machine/Pipeline3D.lean ====
section
/-! DEFINITION. The 3D pipeline (spec/45_pipeline_3d.md R138 to R146): the transform of a vertex, the projection matrix,
and the flattening of a closed mesh. Sums are evaluated left to right as written there. -/

namespace Sys2Proof.Machine

/-- The 3×3 identity. -/
def Mat3.identity : Mat3 :=
  { r0 := ⟨f32One, 0#32, 0#32⟩, r1 := ⟨0#32, f32One, 0#32⟩, r2 := ⟨0#32, 0#32, f32One⟩ }

/-- The squared length of a quaternion. -/
def Quaternion.norm (q : Quaternion) : Nat := (q.w * q.w + q.x * q.x + q.y * q.y + q.z * q.z).toNat

/-- The rotation matrix of a quaternion, each entry rounded to binary32 (R139); the zero quaternion stands for none. -/
def Quaternion.matrix (q : Quaternion) : Mat3 :=
  if q.norm = 0 then Mat3.identity
  else
    let entry (n : Int) : F32 := f32OfRatio n q.norm
    { r0 :=
        ⟨entry (q.w * q.w + q.x * q.x - q.y * q.y - q.z * q.z), entry (2 * (q.x * q.y - q.w * q.z)),
          entry (2 * (q.x * q.z + q.w * q.y))⟩
      r1 :=
        ⟨entry (2 * (q.x * q.y + q.w * q.z)), entry (q.w * q.w - q.x * q.x + q.y * q.y - q.z * q.z),
          entry (2 * (q.y * q.z - q.w * q.x))⟩
      r2 :=
        ⟨entry (2 * (q.x * q.z - q.w * q.y)), entry (2 * (q.y * q.z + q.w * q.x)),
          entry (q.w * q.w - q.x * q.x - q.y * q.y + q.z * q.z)⟩ }

/-- `ROTATION(θ)` (R139): the identity at 0.0, elsewhere some rotation matrix rounded to binary32 (log 17). -/
def rotation (angle : F32) : Mat3 := if f32IsZero angle then Mat3.identity else (Config.rotationAt angle).matrix

/-- A row of a 3×3 matrix times a point (R139). -/
def dot3 (r p : Vec3) : F32 := f32Add (f32Add (f32Mul r.x p.x) (f32Mul r.y p.y)) (f32Mul r.z p.z)

/-- Rotation (R139). -/
def rotate (angle : F32) (p : Vec3) : Vec3 :=
  let r := rotation angle
  { x := dot3 r.r0 p, y := dot3 r.r1 p, z := dot3 r.r2 p }

/-- Translation away from the camera (R140). -/
def translate (tz : F32) (p : Vec3) : Vec3 := { p with z := f32Sub p.z tz }

/-- A row of the projection matrix times `(x, y, z, 1.0)` (R141). -/
def dot4 (r : Vec4) (p : Vec3) : F32 :=
  f32Add (f32Add (f32Add (f32Mul r.x p.x) (f32Mul r.y p.y)) (f32Mul r.z p.z)) (f32Mul r.w f32One)

/-- Projection (R141). -/
def project (m : Mat4) (p : Vec3) : Vec4 :=
  { x := dot4 m.r0 p, y := dot4 m.r1 p, z := dot4 m.r2 p, w := dot4 m.r3 p }

/-- The perspective divide (R142), skipped when `|cw| < EPS`; `nz` is computed and not used. -/
def divide (eps : F32) (c : Vec4) : Vec3 :=
  if f32Lt (f32Abs c.w) eps then { x := c.x, y := c.y, z := c.z }
  else { x := f32Div c.x c.w, y := f32Div c.y c.w, z := f32Div c.z c.w }

/-- The viewport map (R143). -/
def viewport (g : Screen) (n : Vec3) : F32 × F32 :=
  (f32Mul (f32Add n.x f32One) (f32Div (f32OfInt g.width.toNat) f32Two),
   f32Mul (f32Sub f32One n.y) (f32Div (f32OfInt g.height.toNat) f32Two))

/-- `to_pixel(v)` (R144); `none` where the rule raises `NonFiniteVertex`. -/
def toPixel? (p : Params) (g : Screen) (m : Scene) (v : Vertex3) : Option Point :=
  let (px, py) :=
    viewport g (divide p.eps (project m.proj (translate p.tz (rotate m.angle ⟨v.x, v.y, v.z⟩))))
  if f32OutOfInt32 px || f32OutOfInt32 py then none else some { x := f32Trunc px, y := f32Trunc py }

/-- `to_pixel(v)` inside a step: the point, or the state with the fault raised (R144). -/
def toPixelFlow (g : Screen) (m : Scene) (v : Vertex3) (s : State) : Except State Point :=
  match toPixel? s.params g m v with
  | some p => .ok p
  | none => .error (s.raise (.nonFiniteVertex v))

/-- The triangles of a mesh in groups of three; one or two vertices left over are ignored (R138). -/
def flattenTriangles (g : Screen) (m : Scene) : List Vertex3 → State → Flow
  | v0 :: v1 :: v2 :: rest, s =>
    match toPixelFlow g m v0 s with
    | .error t => .error t
    | .ok p0 =>
      match toPixelFlow g m v1 s with
      | .error t => .error t
      | .ok p1 =>
        match toPixelFlow g m v2 s with
        | .error t => .error t
        | .ok p2 => flattenTriangles g m rest (s.addTriangle p0 p1 p2 v0.color)
  | [_, _], s => .ok s
  | [_], s => .ok s
  | [], s => .ok s

/-- `flatten()` (R138): only a Closed mesh of Graphic3D is flattened, and then cleared. -/
def flattenFlow (s : State) : Flow :=
  match s.mode with
  | .graphic3D g m =>
    if m.meshState = .closed then
      match flattenTriangles g m m.mesh s with
      | .ok t => .ok { t with mode := .graphic3D g { m with mesh := [], meshState := .idle } }
      | .error t => .error t
    else .ok s
  | .graphic2D _ => .ok s
  | .text .. => .ok s

/-- `flatten` (R138). DESIGN CHOICE: the spec runs it only as the first action of a Graphic3D pass; by itself it runs in any
phase and lock state, and does nothing in another mode (log 32). -/
def execFlatten (s : State) : Host.Outcome State Fault Refusal := .next (flowEnd (flattenFlow s))

/-- `perspective(view_angle, aspect, z_near, z_far)` (R145). -/
def perspective (viewAngle aspect zNear zFar : F32) : Mat4 :=
  let f := f32Div f32One (tan32 (f32Div viewAngle f32Two))
  let depth := f32Sub zNear zFar
  { r0 := ⟨f32Div f aspect, 0#32, 0#32, 0#32⟩
    r1 := ⟨0#32, f, 0#32, 0#32⟩
    r2 := ⟨0#32, 0#32, f32Div (f32Add zFar zNear) depth, f32Div (f32Mul (f32Mul f32Two zFar) zNear) depth⟩
    r3 := ⟨0#32, 0#32, f32MinusOne, 0#32⟩ }

end Sys2Proof.Machine
end

