-- ==== Sys2Proof/Machine/Commands.lean ====
section
/-! DEFINITION. The wire commands (spec/43_dispatcher.md R112 to R123): what each handler does to the state. A handler
that must take the lock has no step while it is held (R51). -/

namespace Sys2Proof.Machine

/-- A command in a mode that does not accept it (R111). -/
def wrongMode (k : CommandKind) (s : State) : State := s.logEvent (.wrongMode (s.params.wire.ids.idOf k))

/-- MODE_CHANGE (R112). -/
def modeChange? (mode : Byte) (width height : Word16) (depth palette font : Byte) (s : State) : Option State :=
  match newMode? s.params mode width height depth palette font with
  | none => some (s.logEvent .invalidMode)
  | some m =>
    match acquireLock .a s with
    | none => none
    | some t => some (releaseLock .a { t with prims := [], mode := m })

/-- MODE_CHANGE (R112). -/
def execModeChange (mode : Byte) (width height : Word16) (depth palette font : Byte) (s : State) :
    Host.Outcome State Fault Refusal :=
  stepOrWait s (modeChange? mode width height depth palette font s)

/-- SET_PIXEL's effect (R113). -/
def setPixel (x y : Word16) (color : Pixel) (s : State) : State :=
  if isGraphic s.mode then { s with prims := s.prims ++ [pointSpan color ⟨coord x, coord y⟩] }
  else wrongMode .setPixel s

/-- SET_PIXEL (R113). -/
def execSetPixel (x y : Word16) (color : Pixel) (s : State) : Host.Outcome State Fault Refusal :=
  .next (setPixel x y color s)

/-- DRAW_LINE's effect (R114). -/
def drawLine (x0 y0 x1 y1 : Word16) (color : Pixel) (s : State) : State :=
  if isGraphic s.mode then
    { s with prims := s.prims ++ (bresenham (coord x0) (coord y0) (coord x1) (coord y1)).map (pointSpan color) }
  else wrongMode .drawLine s

/-- DRAW_LINE (R114). -/
def execDrawLine (x0 y0 x1 y1 : Word16) (color : Pixel) (s : State) : Host.Outcome State Fault Refusal :=
  .next (drawLine x0 y0 x1 y1 color s)

/-- DRAW_TRIANGLE's effect (R115). -/
def drawTriangle (x0 y0 x1 y1 x2 y2 : Word16) (color : Pixel) (s : State) : State :=
  if isGraphic s.mode then
    s.addTriangle ⟨coord x0, coord y0⟩ ⟨coord x1, coord y1⟩ ⟨coord x2, coord y2⟩ color
  else wrongMode .drawTriangle s

/-- DRAW_TRIANGLE (R115). -/
def execDrawTriangle (x0 y0 x1 y1 x2 y2 : Word16) (color : Pixel) (s : State) :
    Host.Outcome State Fault Refusal :=
  .next (drawTriangle x0 y0 x1 y1 x2 y2 color s)

/-- CLEAR_SCREEN's effect (R116). -/
def clearScreen (color : Pixel) (s : State) : State :=
  if isGraphic s.mode then { s with prims := [], clearColor := color } else wrongMode .clearScreen s

/-- CLEAR_SCREEN (R116). -/
def execClearScreen (color : Pixel) (s : State) : Host.Outcome State Fault Refusal := .next (clearScreen color s)

/-- SWAP_BUFFER (R117): the swap under the lock. -/
def swapBuffer? (s : State) : Option State := (acquireLock .a s).map fun t => releaseLock .a t.swapIds

/-- SWAP_BUFFER (R117). -/
def execSwapBuffer (s : State) : Host.Outcome State Fault Refusal := stepOrWait s (swapBuffer? s)

/-- BEGIN_PRIMITIVES's effect (R118). -/
def beginPrimitives (s : State) : State :=
  match s.mode with
  | .graphic3D g m => { s with mode := .graphic3D g { m with mesh := [], meshState := .open_ } }
  | .graphic2D _ => wrongMode .beginPrimitives s
  | .text .. => wrongMode .beginPrimitives s

/-- BEGIN_PRIMITIVES (R118). -/
def execBeginPrimitives (s : State) : Host.Outcome State Fault Refusal := .next (beginPrimitives s)

/-- END_PRIMITIVES's effect (R119). -/
def endPrimitives (s : State) : State :=
  match s.mode with
  | .graphic3D g m =>
    if m.meshState = .open_ then { s with mode := .graphic3D g { m with meshState := .closed } }
    else s.logEvent .meshNotOpen
  | .graphic2D _ => wrongMode .endPrimitives s
  | .text .. => wrongMode .endPrimitives s

/-- END_PRIMITIVES (R119). -/
def execEndPrimitives (s : State) : Host.Outcome State Fault Refusal := .next (endPrimitives s)

/-- WRITE_VERTEX's effect (R120). -/
def writeVertex (x y z : F32) (color : Pixel) (s : State) : State :=
  match s.mode with
  | .graphic3D g m =>
    if m.meshState = .open_ then
      { s with mode := .graphic3D g { m with mesh := m.mesh ++ [{ x := x, y := y, z := z, color := color }] } }
    else s.logEvent .meshNotOpen
  | .graphic2D _ => wrongMode .writeVertex s
  | .text .. => wrongMode .writeVertex s

/-- WRITE_VERTEX (R120). -/
def execWriteVertex (x y z : F32) (color : Pixel) (s : State) : Host.Outcome State Fault Refusal :=
  .next (writeVertex x y z color s)

/-- SET_PERSPECTIVE's effect (R121). -/
def setPerspective (viewAngle aspect zNear zFar : F32) (s : State) : State :=
  match s.mode with
  | .graphic3D g m => { s with mode := .graphic3D g { m with proj := perspective viewAngle aspect zNear zFar } }
  | .graphic2D _ => wrongMode .setPerspective s
  | .text .. => wrongMode .setPerspective s

/-- SET_PERSPECTIVE (R121). -/
def execSetPerspective (viewAngle aspect zNear zFar : F32) (s : State) : Host.Outcome State Fault Refusal :=
  .next (setPerspective viewAngle aspect zNear zFar s)

/-- INFO_REQUEST's effect (R122): an INFO_RESPONSE packet on `tx`. -/
def infoRequest (s : State) : State :=
  s.send s.params.wire.ids.infoResponse
    (infoResponseBytes (modeCode s.mode) s.mode.width s.mode.height (depthOrZero s.mode) s.readId.byte s.writeId.byte)

/-- INFO_REQUEST (R122). -/
def execInfoRequest (s : State) : Host.Outcome State Fault Refusal := .next (infoRequest s)

/-- `unknown(id)` (R109). -/
def unknownId (id : Byte) (s : State) : State := s.logEvent (.unknownId id)

/-- INFO_RESPONSE (R123): to the Host it is put on `tx`; from the Host it is an unknown id (log 19). -/
def execInfoResponse (dir : Direction) (mode : Byte) (width height : Word16) (depth readId writeId : Byte) (s : State) :
    Host.Outcome State Fault Refusal :=
  match dir with
  | .toHost => .next (s.send s.params.wire.ids.infoResponse (infoResponseBytes mode width height depth readId writeId))
  | .toBlock => .next (unknownId s.params.wire.ids.infoResponse s)

/-- UNKNOWN_ID (R109): the payload is not looked at. -/
def execUnknownId (id : Byte) (_payload : List Byte) (s : State) : Host.Outcome State Fault Refusal :=
  .next (unknownId id s)

end Sys2Proof.Machine
end

