-- ==== Sys2Proof/Machine/Dispatcher.lean ====
section
/-! DEFINITION. The command dispatcher (spec/43_dispatcher.md R105 to R109): the handler table and the dispatch of the
message A has popped. -/

namespace Sys2Proof.Machine

/-- `register(id, k)` (R105): id `0xFF` has no slot and is refused. -/
def register (id : Byte) (k : CommandKind) (s : State) : State :=
  if id = 0xFF#8 then s.refuse .noHandlerSlot else { s with handlers := tablePut id.toNat k s.handlers }

/-- `register` (R105). -/
def execRegister (id : Byte) (k : CommandKind) (s : State) : Host.Outcome State Fault Refusal :=
  .next (register id k s)

/-- The handler of an id (R107): ids up to 254 that have one. -/
def handlerOf (s : State) (id : Byte) : Option CommandKind :=
  if id.toNat ≤ 254 then tableGet id.toNat s.handlers else none

/-- `handler_k(args)` with the arguments decoded from the bytes `p` (R107, R108); `none` where it waits for the lock. -/
def runHandler (k : CommandKind) (p : List Byte) (s : State) : Option State :=
  match k with
  | .modeChange => modeChange? (u8At p 0) (u16At p 1) (u16At p 3) (u8At p 5) (u8At p 6) (u8At p 7) s
  | .setPixel => some (setPixel (u16At p 0) (u16At p 2) (u16At p 4) s)
  | .drawLine => some (drawLine (u16At p 0) (u16At p 2) (u16At p 4) (u16At p 6) (u16At p 8) s)
  | .drawTriangle =>
    some (drawTriangle (u16At p 0) (u16At p 2) (u16At p 4) (u16At p 6) (u16At p 8) (u16At p 10) (u16At p 12) s)
  | .clearScreen => some (clearScreen (u16At p 0) s)
  | .swapBuffer => swapBuffer? s
  | .beginPrimitives => some (beginPrimitives s)
  | .endPrimitives => some (endPrimitives s)
  | .writeVertex => some (writeVertex (f32At p 0) (f32At p 4) (f32At p 8) (u16At p 12) s)
  | .setPerspective => some (setPerspective (f32At p 0) (f32At p 4) (f32At p 8) (f32At p 12) s)
  | .infoRequest => some (infoRequest s)

/-- `p[i]` of a message (R108): bytes the payload does not hold are draws (R102; log 6). -/
def drawnBytes (m : Message) (n : Nat) (s : State) : List Byte :=
  commandBytes (fun i => Config.freeByte (s.draws + i)) m.payload n

/-- `dispatch(m)` (R107). -/
def dispatchMessage? (m : Message) (s : State) : Option State :=
  match handlerOf s m.id with
  | some k => runHandler k (drawnBytes m k.size s) { s with draws := s.draws + k.size }
  | none => some (unknownId m.id s)

/-- `dispatch` of the message A has popped (R106; log 8); a handler that waits for the lock leaves it there (log 31). DESIGN
CHOICE (unsafe, log 33): performed by itself it runs in every phase of A; the spec runs it only in a drain (R110). -/
def dispatch? (s : State) : Option State :=
  match s.aMsg with
  | none => none
  | some m => dispatchMessage? m { s with aMsg := none }

/-- `dispatch` (R107); outside a drain: log 33. -/
def execDispatch (s : State) : Host.Outcome State Fault Refusal := stepOrWait s (dispatch? s)

end Sys2Proof.Machine
end

