-- ==== Sys2Proof/Machine/Fifo.lean ====
section
/-! DEFINITION. The message queue (spec/42_message_fifo.md R98 to R101). -/

namespace Sys2Proof.Machine

/-- `alloc_slot` (R98). -/
def execAllocSlot (s : State) : Host.Outcome State Fault Refusal := .next s.allocSlot

/-- `store` (R99); without an in-flight slot there is nothing to store and no step. -/
def execStore (s : State) : Host.Outcome State Fault Refusal := .next s.storeSlot

/-- `drop` (R100). -/
def execDrop (s : State) : Host.Outcome State Fault Refusal := .next s.dropSlot

/-- `pop()` (R101): the oldest message goes to A (log 8); no step while the queue is empty. DESIGN CHOICE (unsafe, log 33):
performed by itself it runs in every phase of A, and a message A still holds is overwritten; the spec performs it only in a
drain, where A dispatches what it holds first. -/
def pop? (s : State) : Option State :=
  match s.q with
  | [] => none
  | m :: rest => some { s with q := rest, aMsg := some m }

/-- `pop` (R101); outside a drain: log 33. -/
def execPop (s : State) : Host.Outcome State Fault Refusal := stepOrWait s (pop? s)

end Sys2Proof.Machine
end

