-- ==== Sys2Proof/Machine/Framer.lean ====
section
/-! DEFINITION. The link framer (spec/41_link_framer.md): arming, byte delivery, and the completion callback with the
transition table of R94. -/

namespace Sys2Proof.Machine

/-- `arm` (R83). -/
def execArm (t : Target) (n : Nat) (s : State) : Host.Outcome State Fault Refusal := .next (s.arm t n)

/-- One byte delivered into the armed buffer (R84); no step unless a buffer is armed with room and a byte waits.
A byte with no place in the buffer is taken and counted all the same (log 34). -/
def deliver? (s : State) : Option State :=
  match s.frArmed, s.rx with
  | some (t, n), b :: rest =>
    if s.frFilled < n then
      some (({ (s.putTarget t b) with rx := rest, frFilled := s.frFilled + 1 } : State).crcByte b)
    else none
  | _, _ => none

/-- `deliver` (R84). -/
def execDeliver (s : State) : Host.Outcome State Fault Refusal := stepOrWait s (deliver? s)

/-- The framer armed for one token byte: how every packet ends (R94). -/
def awaitToken (s : State) : State := { (s.arm .tok 1) with frPhase := .awaitToken }

/-- The first step after reset (R88). -/
def framerInit (s : State) : State := awaitToken s

/-- Completion in `AwaitToken` (R89). -/
def completeToken (s : State) : State :=
  if gotStartToken s then { (s.crcClear.allocSlot.arm .hdr 2) with frPhase := .awaitHeader } else awaitToken s

/-- The expected CRC captured and two CRC bytes armed (R90, R92). -/
def captureCrc (next : FramerPhase) (s : State) : State :=
  { (s.arm .crc 2) with frExpected := s.crcAcc, frPhase := next }

/-- Completion in `AwaitHeaderCrc` (R91). -/
def completeHeaderCrc (s : State) : State :=
  let (size, t) := slotSize s
  if crcOk t && headerValid size then
    if headerEmpty size then awaitToken t.storeSlot
    else { (t.crcClear.arm .pay size.toNat) with frPhase := .awaitPayload }
  else awaitToken t.dropSlot

/-- Completion in `AwaitPayloadCrc` (R93). -/
def completePayloadCrc (s : State) : State :=
  if crcOk s then awaitToken s.storeSlot else awaitToken s.dropSlot

/-- The transition of the current phase (R94); `Init` has no completion. -/
def complete? (s : State) : Option State :=
  match s.frPhase with
  | .init => none
  | .awaitToken => some (completeToken s)
  | .awaitHeader => some (captureCrc .awaitHeaderCrc s)
  | .awaitHeaderCrc => some (completeHeaderCrc s)
  | .awaitPayload => some (captureCrc .awaitPayloadCrc s)
  | .awaitPayloadCrc => some (completePayloadCrc s)

/-- The completion callback (R85): no step unless the armed block is full. -/
def transferComplete? (s : State) : Option State :=
  match s.frArmed with
  | some (_, n) => if s.frFilled = n then complete? { s with frArmed := none } else none
  | none => none

/-- `transfer_complete` (R85). -/
def execTransferComplete (s : State) : Host.Outcome State Fault Refusal := stepOrWait s (transferComplete? s)

end Sys2Proof.Machine
end

