-- ==== Sys2Proof/Machine/FrameStore.lean ====
section
/-! DEFINITION. The FrameStore (spec/46_framestore.md R150 to R155): line addresses, the page split, line transfers and
the swap. -/

namespace Sys2Proof.Machine

/-- `PLANE_BASE(p)` (R48). -/
def planeBase (p : Params) : PlaneId → Nat
  | .zero => 0
  | .one => p.planeOffset

/-- `addr(p, y)` (R150). -/
def lineAddr (p : Params) (g : Screen) (plane : PlaneId) (y : Nat) : Nat := planeBase p plane + y * g.stride

/-- The page split with fuel: every segment is at least one byte, so `n` segments suffice (R151). -/
def segmentsFrom : Nat → Nat → Nat → List (Nat × Nat)
  | 0, _, _ => []
  | fuel + 1, a, n =>
    if n = 0 then []
    else
      let k := min n (Config.pageSize - a % Config.pageSize)
      (a, k) :: segmentsFrom fuel (a + k) (n - k)

/-- `segments(a, n)` (R151). -/
def segments (a n : Nat) : List (Nat × Nat) := segmentsFrom n a n

/-- The segments of a write, in address order; a fault leaves the earlier ones written (R152). -/
def writeSegments : List (Nat × Nat) → List Byte → State → Flow
  | [], _, s => .ok s
  | (a, k) :: rest, data, s =>
    match memWrite a (data.take k) s with
    | .ok t => writeSegments rest (data.drop k) t
    | .error t => .error t

/-- The segments of a read, in address order (R153). -/
def readSegments : List (Nat × Nat) → State → Except State (List Byte)
  | [], _ => .ok []
  | (a, k) :: rest, s =>
    match memRead a k s with
    | .error t => .error t
    | .ok bs =>
      match readSegments rest s with
      | .error t => .error t
      | .ok more => .ok (bs ++ more)

/-- `write_line(y, data)` by context A, who writes lines (log 13), on a free bus (R152, R47). -/
def writeLineFlow (g : Screen) (y : Nat) (data : List Byte) (s : State) : Flow :=
  match writeSegments (segments (lineAddr s.params g s.writeId y) data.length) data (s.takeBus .a) with
  | .ok t => .ok t.freeBus
  | .error t => .error t

/-- `read_line(y, n)` by context B, who reads lines (log 13), on a free bus (R153, R47): the bytes, and the state with the bus given back. -/
def readLineFlow (g : Screen) (y n : Nat) (s : State) : Except State (List Byte × State) :=
  match readSegments (segments (lineAddr s.params g s.readId y) n) (s.takeBus .b) with
  | .ok bs => .ok (bs, s.freeBus)
  | .error t => .error t

/-- `write_line` (R152): waits for the bus; in Text mode there is no stride and the operation is refused (log 12). -/
def writeLine? (y : Nat) (data : List Byte) (s : State) : Option State :=
  match s.mode.screen? with
  | none => some (s.refuse .textMode)
  | some g => if busReady .a s then some (flowEnd (writeLineFlow g y data s)) else none

/-- `write_line` (R152). -/
def execWriteLine (y : Nat) (data : List Byte) (s : State) : Host.Outcome State Fault Refusal :=
  stepOrWait s (writeLine? y data s)

/-- `read_line` (R153): the bytes are returned in `ret` (log 9). -/
def readLine? (y n : Nat) (s : State) : Option State :=
  match s.mode.screen? with
  | none => some (s.refuse .textMode)
  | some g =>
    if busReady .b s then
      match readLineFlow g y n s with
      | .ok (bs, t) => some { t with ret := .bytes bs }
      | .error t => some t
    else none

/-- `read_line` (R153). -/
def execReadLine (y n : Nat) (s : State) : Host.Outcome State Fault Refusal := stepOrWait s (readLine? y n s)

/-- `swap` (R155). -/
def execSwap (s : State) : Host.Outcome State Fault Refusal := .next s.swapIds

end Sys2Proof.Machine
end

