-- ==== Sys2Proof/Machine/Render.lean ====
section
/-! DEFINITION. The render pass (spec/44_rasterizer.md R132 to R136), taken as one step (log 10). -/

namespace Sys2Proof.Machine

/-- The primitives of the queue drawn on line `y`, in queue order (R132, R133). `drawn` holds those already drawn on this
line. A pixel out of range stops the pass with the later primitives untouched (R125, R169). -/
def drawPrimitives (g : Screen) (y : Nat) (drawn : List Primitive) : List Primitive → State → Flow
  | [], s => .ok { s with prims := drawn }
  | p :: rest, s =>
    match drawPrimitive g y s.lb p with
    | (lb, none, p') => drawPrimitives g y (drawn ++ [p']) rest { s with lb := lb }
    | (lb, some f, _) => .error (({ s with lb := lb, prims := drawn ++ p :: rest } : State).raise f)

/-- The line buffer cleared (R132, R124). -/
def clearedLine (g : Screen) (color : Pixel) : List Pixel :=
  List.replicate g.width.toNat (pixelValue g.depth.bits color)

/-- One line of the pass (R132): clear, draw, write, retire. -/
def renderLine (g : Screen) (y : Nat) (s : State) : Flow :=
  match drawPrimitives g y [] s.prims
      { s with lb := clearedLine g s.clearColor, aPhase := .render y } with
  | .error t => .error t
  | .ok t =>
    match writeLineFlow g y (pack g.depth.bits t.lb) t with
    | .error t' => .error t'
    | .ok t' => .ok { t' with prims := t'.prims.filter fun p => !retired y p }

/-- The lines of the pass in order (R132). -/
def renderLines (g : Screen) : List Nat → State → Flow
  | [], s => .ok s
  | y :: rest, s =>
    match renderLine g y s with
    | .error t => .error t
    | .ok t => renderLines g rest t

/-- The spin: the angle advanced at the end of a Graphic3D pass (R146). -/
def spin (p : Params) : Mode → Mode
  | .graphic3D g m => .graphic3D g { m with angle := f32Add m.angle p.angleStep }
  | .graphic2D g => .graphic2D g
  | .text w h f => .text w h f

/-- The end of the pass: the spin, the lock released, the tick done (R132). -/
def finishPass (s : State) : State :=
  { (releaseLock .a { s with mode := spin s.params s.mode }) with tickDone := true, aPhase := .idle }

/-- The pass with the lock held (R132, R135). DESIGN CHOICE (unsafe, log 10): where TriangleNotRetired is raised, after the
last line, the line cursor a.line of R35 is left at the last line drawn, `H - 1`; the spec does not give it. -/
def renderPass (g : Screen) (s : State) : Flow :=
  match flattenFlow s with
  | .error t => .error t
  | .ok t =>
    match renderLines g (List.range g.height.toNat) t with
    | .error t' => .error t'
    | .ok t' =>
      if t'.prims.isEmpty then .ok (finishPass t') else .error (t'.raise (.triangleNotRetired t'.prims.length))

/-- `render()` (R132): no step unless A is in its Render phase, the lock is free and the bus can be taken (log 11); in
Text mode the pass is refused with the lock held (R136). -/
def render? (s : State) : Option State :=
  match s.aPhase with
  | .idle => none
  | .drain => none
  | .render _ =>
    match acquireLock .a s with
    | none => none
    | some t =>
      match t.mode.screen? with
      | none => some (t.refuse .textMode)
      | some g => if busReady .a t then some (flowEnd (renderPass g t)) else none

/-- `render` (R132). -/
def execRender (s : State) : Host.Outcome State Fault Refusal := stepOrWait s (render? s)

end Sys2Proof.Machine
end

