-- ==== Sys2Proof/Machine/Scanline.lean ====
section
/-! DEFINITION. The scanline supplier and the render tick (spec/47_scanline_supplier.md R157 to R166). -/

namespace Sys2Proof.Machine

/-- The Display's slot after `s` (R157). -/
def nextSlot (p : Params) (s : Slot) : Slot :=
  if s.phys + 1 = p.videoLines then { frame := s.frame + 1, phys := 0 } else { frame := s.frame, phys := s.phys + 1 }

/-- B in `GetSlot` (R158). -/
def getSlot? (s : State) : Option State :=
  match s.bPhase with
  | .getSlot =>
    let t : State := { s with bSlot := some s.dispNext, dispNext := nextSlot s.params s.dispNext }
    if s.dispNext.phys = 0 then
      some { t with tickReq := true, bPhase := if s.params.tickBlocksB then .waitTick else .read }
    else some { t with bPhase := .read }
  | .waitTick => none
  | .read => none
  | .submit => none

/-- `get_slot` (R158). -/
def execGetSlot (s : State) : Host.Outcome State Fault Refusal := stepOrWait s (getSlot? s)

/-- B in `WaitTick`, resumed once the tick is done (R159). -/
def resumeB? (s : State) : Option State :=
  if s.bPhase = .waitTick ∧ s.tickDone = true then some { s with tickDone := false, bPhase := .read } else none

/-- The logical line of a slot (R160). -/
def logicalLine (p : Params) (s : Slot) : Nat := s.phys / p.vScale

/-- The line read and unpacked, and its palette taken from the mode, with the lock held (R161, R162, R180). -/
def readScanline (g : Screen) (line : Nat) (s : State) : Flow :=
  match readLineFlow g line g.stride s with
  | .error t => .error t
  | .ok (bs, t) =>
    .ok
      { (releaseLock .b
          { t with bPixels := unpack g.depth.bits g.width.toNat bs, bPalette := g.paletteDepth }) with
        bPhase := .submit }

/-- A line below the image: `W` drawn pixels of the mode's depth (R161; log 6, log 23). -/
def drawScanline (g : Screen) (s : State) : State :=
  { (releaseLock .b
      { s with
        bPixels := (List.range g.width.toNat).map fun i => pixelValue g.depth.bits (Config.freePixel s.draws i)
        bPalette := g.paletteDepth, draws := s.draws + 1 }) with
    bPhase := .submit }

/-- B in `Read` (R161): no step unless the lock is free and the bus can be taken (log 11); in Text mode the read is refused
with the lock held (R136). DESIGN CHOICE (unsafe, log 35): in a Graphic mode with no slot held there is no step. -/
def scanlineRead? (s : State) : Option State :=
  match s.bPhase with
  | .read =>
    match acquireLock .b s with
    | none => none
    | some t =>
      match t.mode.screen?, t.bSlot with
      | none, _ => some (t.refuse .textMode)
      | some _, none => none
      | some g, some slot =>
        if logicalLine t.params slot < g.height.toNat then
          if busReady .b t then some (flowEnd (readScanline g (logicalLine t.params slot) t)) else none
        else some (drawScanline g t)
  | .getSlot => none
  | .waitTick => none
  | .submit => none

/-- `scanline_read` (R161). -/
def execScanlineRead (s : State) : Host.Outcome State Fault Refusal := stepOrWait s (scanlineRead? s)

/-- The display value of a pixel (R163), through the table for a depth or through none. -/
def displayPixel (palette : Option Depth) (p : Pixel) : Nat :=
  match palette with
  | some d => Config.videoPixel (Config.palette d p)
  | none => Config.videoPixel p.toNat

/-- The scanline command of the packed line (R164), in the palette it was read with (R180; log 18). -/
def scanlineCmd (s : State) : ScanlineCmd :=
  [.rawRun s.bPixels.length (s.bPixels.map (displayPixel s.bPalette)), .endOfLine]

/-- The words the display hardware receives for a command (R164). -/
def displayWords (c : ScanlineCmd) : List Nat := Config.scanlineEncoding c

/-- B in `Submit` (R165). DESIGN CHOICE (unsafe, log 35): with no slot held there is no step. -/
def submit? (s : State) : Option State :=
  match s.bPhase, s.bSlot with
  | .submit, some slot => some { s with video := s.video ++ [(slot, scanlineCmd s)], bSlot := none, bPhase := .getSlot }
  | .submit, none => none
  | .getSlot, _ => none
  | .waitTick, _ => none
  | .read, _ => none

/-- `submit` (R165). -/
def execSubmit (s : State) : Host.Outcome State Fault Refusal := stepOrWait s (submit? s)

/-- A in `Idle`, taking a requested tick (R166). -/
def renderTick? (s : State) : Option State :=
  if s.aPhase = .idle ∧ s.tickReq = true then some { s with tickReq := false, aPhase := .drain } else none

/-- `render_tick` (R166). -/
def execRenderTick (s : State) : Host.Outcome State Fault Refusal := stepOrWait s (renderTick? s)

end Sys2Proof.Machine
end

