-- ==== Sys2Proof/Machine/Agents.lean ====
section
/-! DEFINITION. What each agent does when it is its turn (spec/60_exceptions.md R174): which instruction of the table it
performs, or which step that is no row of the table. -/

namespace Sys2Proof.Machine

/-- What an agent does with its turn. -/
inductive Action where
  /-- An instruction of the table. -/
  | perform (i : Instr)
  /-- The framer's first step (R88). -/
  | framerInit
  /-- A finds the queue empty and goes on to the render pass (R106). -/
  | drained
  /-- B goes on after the tick (R159). -/
  | resume
  /-- The Host appends a byte to `rx` (R186). -/
  | hostSend (b : Byte)
  /-- The Host removes a byte from `tx` (R186). -/
  | hostTake
  /-- A byte of `rx` is lost (R86). -/
  | hostLose (i : Nat)
  /-- The agent has no step (R13). -/
  | wait
deriving DecidableEq, Repr, Inhabited

/-- The Framer (R88, R84, R85). -/
def framerAction (s : State) : Action :=
  if s.frPhase = .init then .framerInit
  else
    match s.frArmed with
    | none => .wait
    | some (_, n) =>
      if s.frFilled = n then .perform .transferComplete
      else if s.frFilled < n ∧ s.rx ≠ [] then .perform .deliver
      else .wait

/-- Context A (R166, R106, R132). -/
def ctxAAction (s : State) : Action :=
  match s.aPhase with
  | .idle => if s.tickReq then .perform .renderTick else .wait
  | .drain => if s.aMsg.isSome then .perform .dispatch else if s.q ≠ [] then .perform .pop else .drained
  | .render _ => .perform .render

/-- Context B (R158, R159, R161, R165). -/
def ctxBAction (s : State) : Action :=
  match s.bPhase with
  | .getSlot => .perform .getSlot
  | .waitTick => if s.tickDone then .resume else .wait
  | .read => .perform .scanlineRead
  | .submit => .perform .submit

/-- What the agent whose turn it is does. -/
def actionOf (t : Turn) (s : State) : Action :=
  match t with
  | .hostSend b => .hostSend b
  | .hostTake => .hostTake
  | .hostLose i => if s.params.lossy then .hostLose i else .wait
  | .framer => framerAction s
  | .ctxA => ctxAAction s
  | .ctxB => ctxBAction s

/-- A's end of the drain: the pass starts at line 0 (R106, R35). -/
def endDrain (s : State) : State := { s with aPhase := .render 0 }

/-- The Host appends a byte (R186). -/
def hostSend (b : Byte) (s : State) : State := { s with rx := s.rx ++ [b] }

/-- The Host removes the first byte of `tx` (R186); of an empty `tx` none (log 30). -/
def hostTake (s : State) : State := { s with tx := s.tx.drop 1 }

/-- Byte `i` of `rx` is deleted (R86); none where `rx` is not that long (log 30). -/
def hostLose (i : Nat) (s : State) : State := { s with rx := s.rx.eraseIdx i }

/-- The message that stands for a table word when A dispatches it next (log 21). -/
def tableMessage (nbits w : Nat) : Message :=
  let id := u8At (tableBytes nbits w) 1
  let payload := tablePayload IdMap.table nbits w
  { id := id, size := BitVec.ofNat 8 payload.length
    payload := payload.map some ++ List.replicate (Config.maxPayload - payload.length) none, received := true }

/-- The state in which A's next step dispatches the packet of a table word (log 21). -/
def placeTableWord (s : State) (nbits w : Nat) : State :=
  { s with aPhase := .drain, aMsg := some (tableMessage nbits w), sched := .ctxA :: s.sched }

end Sys2Proof.Machine
end

