-- ==== Sys2Proof/Machine/CrcUnit.lean ====
section
/-! DEFINITION. The meanings of the CRC unit's operations (spec/40_crc.md R78 to R81). A returned value is put into the
model's own field `ret` (log 9). -/

namespace Sys2Proof.Machine

/-- `crc_step` (R78). -/
def execCrcStep (b : Byte) (s : State) : Host.Outcome State Fault Refusal := .next (s.crcByte b)

/-- `crc_reset` (R79). -/
def execCrcReset (s : State) : Host.Outcome State Fault Refusal := .next s.crcClear

/-- `crc_read` (R80): returns the accumulator. -/
def execCrcRead (s : State) : Host.Outcome State Fault Refusal := .next { s with ret := .crcValue s.crcAcc }

/-- `crc_check` (R81): returns the guard `crc_ok`. -/
def execCrcCheck (s : State) : Host.Outcome State Fault Refusal := .next { s with ret := .guard (crcOk s) }

end Sys2Proof.Machine
end

