-- ==== Sys2Proof/Machine/Dispatch.lean ====
section
/-! DEFINITION. One arm for each instruction, in the order of spec/opcode_table.json. -/

namespace Sys2Proof.Machine

def exec (i : Instr) (s : State) : Host.Outcome State Fault Refusal :=
  match i with
  | .modeChange mode width height depth palette font => Sys2Proof.Machine.execModeChange mode width height depth palette font s
  | .setPixel x y color => Sys2Proof.Machine.execSetPixel x y color s
  | .drawLine x0 y0 x1 y1 color => Sys2Proof.Machine.execDrawLine x0 y0 x1 y1 color s
  | .drawTriangle x0 y0 x1 y1 x2 y2 color => Sys2Proof.Machine.execDrawTriangle x0 y0 x1 y1 x2 y2 color s
  | .clearScreen color => Sys2Proof.Machine.execClearScreen color s
  | .swapBuffer => Sys2Proof.Machine.execSwapBuffer s
  | .beginPrimitives => Sys2Proof.Machine.execBeginPrimitives s
  | .endPrimitives => Sys2Proof.Machine.execEndPrimitives s
  | .writeVertex x y z color => Sys2Proof.Machine.execWriteVertex x y z color s
  | .setPerspective viewAngle aspect zNear zFar => Sys2Proof.Machine.execSetPerspective viewAngle aspect zNear zFar s
  | .infoRequest => Sys2Proof.Machine.execInfoRequest s
  | .infoResponse dir mode width height depth readId writeId => Sys2Proof.Machine.execInfoResponse dir mode width height depth readId writeId s
  | .unknownId id payload => Sys2Proof.Machine.execUnknownId id payload s
  | .crcStep b => Sys2Proof.Machine.execCrcStep b s
  | .crcReset => Sys2Proof.Machine.execCrcReset s
  | .crcRead => Sys2Proof.Machine.execCrcRead s
  | .crcCheck => Sys2Proof.Machine.execCrcCheck s
  | .arm target n => Sys2Proof.Machine.execArm target n s
  | .deliver => Sys2Proof.Machine.execDeliver s
  | .transferComplete => Sys2Proof.Machine.execTransferComplete s
  | .allocSlot => Sys2Proof.Machine.execAllocSlot s
  | .store => Sys2Proof.Machine.execStore s
  | .drop => Sys2Proof.Machine.execDrop s
  | .pop => Sys2Proof.Machine.execPop s
  | .register id kind => Sys2Proof.Machine.execRegister id kind s
  | .dispatch => Sys2Proof.Machine.execDispatch s
  | .addTriangle v0 v1 v2 color => Sys2Proof.Machine.execAddTriangle v0 v1 v2 color s
  | .render => Sys2Proof.Machine.execRender s
  | .flatten => Sys2Proof.Machine.execFlatten s
  | .writeLine y data => Sys2Proof.Machine.execWriteLine y data s
  | .readLine y n => Sys2Proof.Machine.execReadLine y n s
  | .swap => Sys2Proof.Machine.execSwap s
  | .getSlot => Sys2Proof.Machine.execGetSlot s
  | .scanlineRead => Sys2Proof.Machine.execScanlineRead s
  | .submit => Sys2Proof.Machine.execSubmit s
  | .renderTick => Sys2Proof.Machine.execRenderTick s

end Sys2Proof.Machine
end

