-- ==== Sys2Proof/Machine/Step.lean ====
section
/-! DEFINITION. One step of the block (spec/00_scope.md R7, R13): the agent whose turn it is takes its step. -/

namespace Sys2Proof.Machine

/-- An agent's action carried out. -/
def act (a : Action) (s : State) : Host.Outcome State Fault Refusal :=
  match a with
  | .perform i => exec i s
  | .framerInit => .next (framerInit s)
  | .drained => .next (endDrain s)
  | .resume => stepOrWait s (resumeB? s)
  | .hostSend b => .next (hostSend b s)
  | .hostTake => .next (hostTake s)
  | .hostLose i => .next (hostLose i s)
  | .wait => .next s

/-- One step. A faulted or refused block has none (R169, R171); otherwise the turn is used up and its agent acts. -/
def step (s : State) : Host.Outcome State Fault Refusal :=
  match s.fault with
  | some f => .fault (.halted f)
  | none =>
    match s.refused with
    | some r => .refused (.marked r)
    | none => act (actionOf (takeTurn s).1 (takeTurn s).2) (takeTurn s).2

/-- The state whose next step runs the packet of a table word: context A, draining, has popped its message (log 21). -/
def State.withFetchWord (s : State) (nbits w : Nat) : State := placeTableWord s nbits w

end Sys2Proof.Machine
end

