-- ==== Sys2Proof/Safety.lean ====
section
/-! DEFINITION. What claims call a good state: the preconditions on parameters (spec/70_reset_and_hazards.md R193) and the
invariants spec/ states about the queue, the framer, the buffer ids, the lock, memory and the mode. At the end, what a
primitive shows on a line of a pass, in the terms of spec/44_rasterizer.md R129 and R130. -/

namespace Sys2Proof.Safety

open Sys2Proof.Machine

/-- The preconditions of R193 and R9 that parameters which are data can meet: a legal Graphic initial mode, positive
`V_SCALE`, enough video lines for it, and a legal `ID_MAP`. -/
def paramsOk (p : Params) : Prop :=
  p.wire.ids.legal = true ∧ 1 ≤ p.vScale ∧
    ∃ g, p.initialMode.screen? = some g ∧ 1 ≤ g.width.toNat ∧ 1 ≤ g.height.toNat ∧ planesFit p g = true
      ∧ p.vScale * g.height.toNat ≤ p.videoLines

/-- R24: the committed messages and a real in-flight slot together are at most 32. -/
def queueBounded (s : State) : Prop :=
  s.q.length + (match s.frSlot with
    | some f => if f.discard then 0 else 1
    | none => 0) ≤ Config.queueCap

/-- R24: a committed message is marked received, and its payload's first `size` bytes have arrived. -/
def messageWhole (m : Message) : Prop :=
  m.received = true ∧ m.size.toNat ≤ Config.maxPayload ∧ m.payload.length = Config.maxPayload ∧
    ∀ i, i < m.size.toNat → ∃ b, m.payload[i]? = some (some b)

/-- The in-flight slot holds its header and the first `n` payload bytes (R23, R84). -/
def slotHolds (f : InFlight) (size : Byte) (n : Nat) : Prop :=
  (∃ id, f.id = some id) ∧ f.size = some size ∧ f.payload.length = Config.maxPayload ∧
    ∀ i, i < n → ∃ b, f.payload[i]? = some (some b)

/-- R94: every phase arms exactly one block, of the length that phase awaits, with the slot as far filled as the phase
says. -/
def framerInPhase (s : State) : Prop :=
  match s.frPhase with
  | .init => s.frArmed = none ∧ s.frSlot = none
  | .awaitToken => s.frArmed = some (.tok, 1) ∧ s.frFilled ≤ 1 ∧ s.frSlot = none
  | .awaitHeader =>
    s.frArmed = some (.hdr, 2) ∧ s.frFilled ≤ 2 ∧
      ∃ f, s.frSlot = some f ∧ f.payload.length = Config.maxPayload ∧
        (1 ≤ s.frFilled → ∃ id, f.id = some id) ∧ (2 ≤ s.frFilled → ∃ z, f.size = some z)
  | .awaitHeaderCrc =>
    s.frArmed = some (.crc, 2) ∧ s.frFilled ≤ 2 ∧ ∃ f z, s.frSlot = some f ∧ slotHolds f z 0
  | .awaitPayload =>
    ∃ f z, s.frSlot = some f ∧ 1 ≤ z.toNat ∧ z.toNat ≤ Config.maxPayload ∧ s.frFilled ≤ z.toNat ∧
      s.frArmed = some (.pay, z.toNat) ∧ slotHolds f z s.frFilled
  | .awaitPayloadCrc =>
    s.frArmed = some (.crc, 2) ∧ s.frFilled ≤ 2 ∧
      ∃ f z, s.frSlot = some f ∧ 1 ≤ z.toNat ∧ z.toNat ≤ Config.maxPayload ∧ slotHolds f z z.toNat

/-- The framer is in its phase and every committed message is whole (R94, R24). -/
def linkOk (s : State) : Prop := framerInPhase s ∧ ∀ m, m ∈ s.q → messageWhole m

/-- R30: exactly one plane is the write target. -/
def planesDistinct (s : State) : Prop := s.readId ≠ s.writeId

/-- R51, R47: between steps the lock and the bus are free, unless the block has stopped. -/
def locksFree (s : State) : Prop := stopped s = false → s.lock = .free ∧ s.bus = .free

/-- The memory is in canonical form and lists only addresses that exist (R31, R41). -/
def memoryOk (s : State) : Prop :=
  Memory.wf s.ext = true ∧ ∀ c, c ∈ s.ext → c.1 < s.params.extMemSize

/-- R112: a Graphic mode has at least one pixel and one line, and both planes fit. -/
def modeLegal (s : State) : Prop :=
  1 ≤ s.mode.width.toNat ∧ 1 ≤ s.mode.height.toNat ∧
    ∀ g, s.mode.screen? = some g → planesFit s.params g = true

/-- No fault of code 3 is recorded (R170). -/
def noExtMemRange (s : State) : Prop := ∀ a, s.fault ≠ some (.extMemRange a)

/-- A outside a drain holds no popped message (R106). -/
def messageOnlyInDrain (s : State) : Prop := s.aMsg ≠ none → s.aPhase = .drain

/-! ### What a pass shows of a primitive -/

/-- The two edges of a prepared triangle once `n` of its lines are filled, each line advancing them by the slopes of its
half, the line `mid_y` by those of the lower (R129). -/
def edgesAfter (t : Tri) : Nat → F32 × F32
  | 0 => (t.sx, t.ex)
  | n + 1 =>
    let short := if t.minY.toNat + n < t.midY.toNat then t.dx1 else t.dx3
    (f32Add (edgesAfter t n).1 (if t.longLeft then t.dx2 else short),
     f32Add (edgesAfter t n).2 (if t.longLeft then short else t.dx2))

/-- The run of pixels a primitive fills on line `y` of a pass, if that line is one of its own (R129, R130). -/
def spanOn (y : Nat) : Primitive → Option Span
  | .tri t =>
    if t.minY.toNat ≤ y ∧ y ≤ t.maxY.toNat then
      let e := edgesAfter t (y - t.minY.toNat)
      some { y := BitVec.ofNat 16 y, x0 := f32RoundAway e.1, x1 := f32RoundAway e.2, color := t.color }
    else none
  | .span p => if p.y.toNat = y then some p else none

/-- A primitive as a pass holds it when it comes to line `y` (R129). -/
def atLine (y : Nat) : Primitive → Primitive
  | .tri t =>
    .tri { t with sx := (edgesAfter t (y - t.minY.toNat)).1, ex := (edgesAfter t (y - t.minY.toNat)).2 }
  | .span p => .span p

/-- The last line a primitive can touch (R134). -/
def lastLine : Primitive → Nat
  | .tri t => t.maxY.toNat
  | .span p => p.y.toNat

/-- On every line above `y` the primitive's run is empty or inside a line of `w` pixels (R125). -/
def runsInside (w y : Nat) (p : Primitive) : Prop :=
  ∀ y' q, y' < y → spanOn y' p = some q → q.x0 ≤ q.x1 → 0 ≤ q.x0 ∧ q.x1 < (w : Int)

end Sys2Proof.Safety
end

