-- ==== Sys2Proof/Certificates/Slice0/Obligations.lean ====
section
/-! DEFINITION. The statements for the provers. Every statement about every state is about every value of the parameters
that State carries and about every value of the free constants of Config. -/

open Sys2Proof Sys2Proof.Machine Sys2Proof.Safety

/-! ### The step -/

/-- R106, R107: when A's turn comes and it holds a popped message whose id has a handler, the step runs the instruction
that the message's bytes decode to, with the message taken, the turn used up and the draws counted. -/
def Obligations.StepRunsTheDecodedCommand : Prop :=
  ∀ (s : State) (rest : List Turn) (m : Message) (k : CommandKind),
    stopped s = false → s.sched = .ctxA :: rest → s.aPhase = .drain → s.aMsg = some m →
    handlerOf s m.id = some k → s.lock = .free →
    step s = exec (instrOf k (drawnBytes m k.size s))
      { s with sched := rest, aMsg := none, draws := s.draws + k.size }

/-- R107, R108, R72: with the boot table and a legal id map, dispatching the message of a well-formed packet runs exactly
the instruction the packet encodes, whatever it is: a command, an unknown id, or an INFO_RESPONSE from the Host. -/
def Obligations.StepRunsTheEncodedPacket : Prop :=
  ∀ (s : State) (rest : List Turn) (m : Message) (i : Instr) (id : Byte) (payload : List Byte),
    stopped s = false → s.sched = .ctxA :: rest → s.aPhase = .drain → s.aMsg = some m → s.lock = .free →
    s.params.wire.ids.legal = true → s.handlers = bootHandlers s.params.wire.ids →
    i.wellFormed s.params.wire = true → i.direction = .toBlock →
    encodeMessage s.params.wire i = some (id, payload) → m.id = id →
    (∀ n, n < payload.length → m.payload[n]? = some payload[n]?) →
    ∃ d, step s = exec i { s with sched := rest, aMsg := none, draws := s.draws + d }

/-- R174: whose turn it is performs the instruction its phase asks for, and nothing else but the turn is used up. -/
def Obligations.AgentsPerformTheirInstruction : Prop :=
  ∀ (s : State) (rest : List Turn), stopped s = false →
    (s.sched = .framer :: rest → s.frPhase ≠ .init → ∀ t n, s.frArmed = some (t, n) →
      (s.frFilled = n → step s = exec .transferComplete { s with sched := rest }) ∧
      (s.frFilled < n → s.rx ≠ [] → step s = exec .deliver { s with sched := rest })) ∧
    (s.sched = .ctxA :: rest →
      (s.aPhase = .idle → s.tickReq = true → step s = exec .renderTick { s with sched := rest }) ∧
      (s.aPhase = .drain → s.aMsg = none → s.q ≠ [] → step s = exec .pop { s with sched := rest }) ∧
      (s.aPhase = .drain → s.aMsg ≠ none → step s = exec .dispatch { s with sched := rest }) ∧
      (∀ l, s.aPhase = .render l → step s = exec .render { s with sched := rest })) ∧
    (s.sched = .ctxB :: rest →
      (s.bPhase = .getSlot → step s = exec .getSlot { s with sched := rest }) ∧
      (s.bPhase = .read → step s = exec .scanlineRead { s with sched := rest }) ∧
      (s.bPhase = .submit → step s = exec .submit { s with sched := rest }))

/-- R88, R106, R159, R186, R86: the steps that are no row of the table. -/
def Obligations.AgentsOwnSteps : Prop :=
  ∀ (s : State) (rest : List Turn), stopped s = false →
    (s.sched = .framer :: rest → s.frPhase = .init →
      step s = .next { s with sched := rest, frArmed := some (.tok, 1), frFilled := 0, frPhase := .awaitToken }) ∧
    (s.sched = .ctxA :: rest → s.aPhase = .drain → s.aMsg = none → s.q = [] →
      step s = .next { s with sched := rest, aPhase := .render 0 }) ∧
    (s.sched = .ctxB :: rest → s.bPhase = .waitTick → s.tickDone = true →
      step s = .next { s with sched := rest, tickDone := false, bPhase := .read }) ∧
    (∀ b, s.sched = .hostSend b :: rest → step s = .next { s with sched := rest, rx := s.rx ++ [b] }) ∧
    (s.sched = .hostTake :: rest → step s = .next { s with sched := rest, tx := s.tx.drop 1 }) ∧
    (∀ i, s.sched = .hostLose i :: rest →
      step s = .next { s with sched := rest, rx := if s.params.lossy then s.rx.eraseIdx i else s.rx })

/-- R169, R171: a faulted or refused block has no step. -/
def Obligations.StoppedBlockHasNoStep : Prop :=
  ∀ s : State,
    (∀ f, s.fault = some f → step s = .fault (.halted f)) ∧
    (∀ r, s.fault = none → s.refused = some r → step s = .refused (.marked r)) ∧
    (stopped s = false → ∃ t, step s = .next t)

/-- R13, R51, R84, R117, R132, R159, R161, R166: an agent that has no step waits, and nothing changes (that its turn is used
up is log 2); a render pass, a scanline read, a swap and every valid mode change wait while the lock is held, and so does
the dispatch of a message whose command waits, which keeps its message (log 31). With no slot held a scanline read in
a Graphic mode and a submit wait too: the model's choice (log 35). -/
def Obligations.WaitingChangesNothing : Prop :=
  ∀ (s : State) (rest : List Turn), stopped s = false →
    (s.sched = .framer :: rest → s.frPhase ≠ .init → (∀ t n, s.frArmed = some (t, n) → s.frFilled < n ∧ s.rx = []) →
      step s = .next { s with sched := rest }) ∧
    (s.sched = .ctxA :: rest → s.aPhase = .idle → s.tickReq = false → step s = .next { s with sched := rest }) ∧
    (s.sched = .ctxB :: rest → s.bPhase = .waitTick → s.tickDone = false → step s = .next { s with sched := rest }) ∧
    (¬(s.aPhase = .idle ∧ s.tickReq = true) → exec .renderTick s = .next s) ∧
    (s.bSlot = none → (s.mode.screen? ≠ none → exec .scanlineRead s = .next s) ∧ exec .submit s = .next s) ∧
    (s.lock ≠ .free →
      exec .render s = .next s ∧ exec .scanlineRead s = .next s ∧ exec .swapBuffer s = .next s ∧
      (∀ mode w h depth palette font, newMode? s.params mode w h depth palette font ≠ none →
        exec (.modeChange mode w h depth palette font) s = .next s) ∧
      ∀ m k, s.aMsg = some m → handlerOf s m.id = some k →
        (k = .swapBuffer ∨ ∃ mode w h depth palette font,
          instrOf k (drawnBytes m k.size s) = .modeChange mode w h depth palette font ∧
            newMode? s.params mode w h depth palette font ≠ none) →
        exec .dispatch s = .next s)

/-! ### Encoding -/

/-- The packets of 30_encoding.md R75 and 95_test_vectors.md E1, E2, E6, E8, E11, E13 decode to the instructions they
stand for. -/
def Obligations.SpecPacketsDecode : Prop :=
  ∀ stale : Nat → Byte,
    decode Wire.spec .toBlock stale
        [0x7E#8, 0x02#8, 0x06#8, 0xA4#8, 0x06#8, 0x03#8, 0x00#8, 0x04#8, 0x00#8, 0xFF#8, 0x00#8, 0xEE#8, 0x07#8]
      = .ok (.setPixel 3#16 4#16 255#16, []) ∧
    decode Wire.spec .toBlock stale [0x7E#8, 0x06#8, 0x00#8, 0xA6#8, 0xAA#8] = .ok (.swapBuffer, []) ∧
    decode Wire.spec .toBlock stale
        [0x7E#8, 0x01#8, 0x08#8, 0x39#8, 0xB2#8, 0x01#8, 0x10#8, 0x00#8, 0x08#8, 0x00#8, 0x08#8, 0x00#8, 0x00#8,
         0x24#8, 0xDB#8]
      = .ok (.modeChange 1#8 16#16 8#16 8#8 0#8 0#8, []) ∧
    decode Wire.spec .toBlock stale
        [0x7E#8, 0x04#8, 0x0E#8, 0x0A#8, 0x2D#8, 0x01#8, 0x00#8, 0x05#8, 0x00#8, 0x09#8, 0x00#8, 0x09#8, 0x00#8,
         0x09#8, 0x00#8, 0x01#8, 0x00#8, 0x01#8, 0x00#8, 0xA0#8, 0x04#8]
      = .ok (.drawTriangle 1#16 5#16 9#16 9#16 9#16 1#16 1#16, []) ∧
    decode Wire.spec .toBlock stale
        [0x7E#8, 0x0A#8, 0x10#8, 0xFA#8, 0xFD#8, 0xDB#8, 0x0F#8, 0xC9#8, 0x3F#8, 0x00#8, 0x00#8, 0x80#8, 0x3F#8,
         0x00#8, 0x00#8, 0x80#8, 0x3F#8, 0x00#8, 0x00#8, 0x40#8, 0x40#8, 0x51#8, 0x67#8]
      = .ok (.setPerspective 0x3FC90FDB#32 0x3F800000#32 0x3F800000#32 0x40400000#32, []) ∧
    decode Wire.spec .toBlock stale
        [0x7E#8, 0x09#8, 0x0E#8, 0x56#8, 0x5B#8, 0x00#8, 0x00#8, 0x80#8, 0x3F#8, 0x00#8, 0x00#8, 0x80#8, 0x3F#8,
         0x00#8, 0x00#8, 0x00#8, 0x00#8, 0x05#8, 0x00#8, 0xC5#8, 0x0F#8]
      = .ok (.writeVertex 0x3F800000#32 0x3F800000#32 0#32 5#16, [])

/-- R59 to R72: every well-formed packet, under every legal id map and either CRC, decodes to itself, whatever bytes come
after it and whatever the stale bytes are. -/
def Obligations.DecodeOfEncode : Prop :=
  ∀ (w : Wire) (stale : Nat → Byte) (i : Instr) (bs rest : List Byte),
    w.ids.legal = true → i.wellFormed w = true → encode w i = some bs →
    decode w i.direction stale (bs ++ rest) = .ok (i, rest)

/-- R59, R60: what decodes, with the nominal size of its id (any size for an unknown id), is the encoding of what it
decodes to, followed by the bytes left over. -/
def Obligations.EncodeOfDecode : Prop :=
  ∀ (w : Wire) (dir : Direction) (stale : Nat → Byte) (i : Instr) (id size : Byte) (tail rest : List Byte),
    decode w dir stale (0x7E#8 :: id :: size :: tail) = .ok (i, rest) →
    (size.toNat = nominalSize w.ids id ∨ w.ids.lacks id = true) →
    ∃ bs, encode w i = some bs ∧ bs ++ rest = 0x7E#8 :: id :: size :: tail

/-- R73, R60: what is no packet is refused, by name: a wrong token, a header that is cut short, a wrong header CRC, a size
above 32, a payload that is cut short, a wrong payload CRC. -/
def Obligations.DecoderRefusesByName : Prop :=
  ∀ (w : Wire) (dir : Direction) (stale : Nat → Byte) (token id size h0 h1 : Byte) (rest : List Byte),
    (token ≠ 0x7E#8 → decode w dir stale (token :: id :: size :: h0 :: h1 :: rest) = .error .noStartToken) ∧
    (crc16 w.crcReflected [id, size] ≠ le16 h0 h1 →
      decode w dir stale (0x7E#8 :: id :: size :: h0 :: h1 :: rest) = .error .badHeaderCrc) ∧
    (crc16 w.crcReflected [id, size] = le16 h0 h1 → 32 < size.toNat →
      decode w dir stale (0x7E#8 :: id :: size :: h0 :: h1 :: rest) = .error .oversize) ∧
    (crc16 w.crcReflected [id, size] = le16 h0 h1 → size.toNat ≤ 32 → size ≠ 0#8 → rest.length < size.toNat + 2 →
      decode w dir stale (0x7E#8 :: id :: size :: h0 :: h1 :: rest) = .error .truncated) ∧
    (∀ c0 c1, crc16 w.crcReflected [id, size] = le16 h0 h1 → 1 ≤ size.toNat → size.toNat ≤ 32 →
      rest[size.toNat]? = some c0 → rest[size.toNat + 1]? = some c1 →
      crc16 w.crcReflected (rest.take size.toNat) ≠ le16 c0 c1 →
      decode w dir stale (0x7E#8 :: id :: size :: h0 :: h1 :: rest) = .error .badPayloadCrc) ∧
    (rest.length < 4 → decode w dir stale (0x7E#8 :: rest) = .error .truncated) ∧
    decode w dir stale [] = .error .truncated

/-! ### The CRC unit -/

/-- R76 to R81: the four operations of the CRC unit; a returned value is put into the model's own field `ret` (log 9). The
accumulator steps bit by bit by the polynomial of the flag's bit order, and the check values of both orders, over the bytes
of "123456789" and over 01, are the spec's. -/
def Obligations.CrcUnitOperations : Prop :=
  ∀ (s : State) (b : Byte),
    exec (.crcStep b) s = .next { s with crcAcc := crcStep s.params.wire.crcReflected s.crcAcc b } ∧
    exec .crcReset s = .next { s with crcAcc := 0x0000#16 } ∧
    exec .crcRead s = .next { s with ret := .crcValue s.crcAcc } ∧
    exec .crcCheck s = .next { s with ret := .guard (decide (s.frExpected.toNat = s.frCrc0.toNat + 256 * s.frCrc1.toNat)) } ∧
    crcStep false s.crcAcc b = (List.range 8).foldl
      (fun c _ => if c.getLsbD 15 then (c <<< 1) ^^^ 0x1021#16 else c <<< 1) (s.crcAcc ^^^ (b.setWidth 16 <<< 8)) ∧
    crcStep true s.crcAcc b = (List.range 8).foldl
      (fun c _ => if c.getLsbD 0 then (c >>> 1) ^^^ 0x8408#16 else c >>> 1) (s.crcAcc ^^^ b.setWidth 16) ∧
    (let digits : List Byte := [0x31#8, 0x32#8, 0x33#8, 0x34#8, 0x35#8, 0x36#8, 0x37#8, 0x38#8, 0x39#8]
     crc16 false digits = 0x31C3#16 ∧ crc16 true digits = 0x2189#16 ∧ crc16 false [0x01#8] = 0x1021#16 ∧
       crc16 true [0x01#8] = 0x1189#16)

/-- R82: in either bit order, no single-bit error of a block, of any length, leaves its CRC the same, and no single-bit
error of the two CRC bytes leaves their value the same. -/
def Obligations.CrcDetectsSingleBitErrors : Prop :=
  ∀ (reflected : Bool) (pre post : List Byte) (b c0 c1 : Byte) (bit : Nat), bit < 8 →
    crc16 reflected (pre ++ (b ^^^ (1#8 <<< bit)) :: post) ≠ crc16 reflected (pre ++ b :: post) ∧
    le16 (c0 ^^^ (1#8 <<< bit)) c1 ≠ le16 c0 c1 ∧ le16 c0 (c1 ^^^ (1#8 <<< bit)) ≠ le16 c0 c1

/-! ### The link framer and the queue -/

/-- R83, R84: arming, and one byte delivered into each of the four buffers; the two that are in the slot need one. Arming
length 0, which R83 does not admit, and a byte with no place in its buffer are in LinkOperationsFrame. -/
def Obligations.ArmAndDeliver : Prop :=
  ∀ (s : State) (t : Target) (n : Nat) (b : Byte) (rx : List Byte) (f : InFlight),
    (1 ≤ n → exec (.arm t n) s = .next { s with frArmed := some (t, n), frFilled := 0 }) ∧
    (s.rx = b :: rx → s.frFilled < n →
      (s.frArmed = some (.tok, n) →
        exec .deliver s = .next { s with
          rx := rx, frTok := b, frFilled := s.frFilled + 1
          crcAcc := crcStep s.params.wire.crcReflected s.crcAcc b }) ∧
      (s.frArmed = some (.hdr, n) → s.frSlot = some f →
        exec .deliver s = .next { s with
          rx := rx, frFilled := s.frFilled + 1
          frSlot := some (if s.frFilled = 0 then { f with id := some b } else { f with size := some b })
          crcAcc := crcStep s.params.wire.crcReflected s.crcAcc b }) ∧
      (s.frArmed = some (.crc, n) → n ≤ 2 →
        exec .deliver s = .next { s with
          rx := rx, frFilled := s.frFilled + 1
          frCrc0 := if s.frFilled = 0 then b else s.frCrc0
          frCrc1 := if s.frFilled = 0 then s.frCrc1 else b
          crcAcc := crcStep s.params.wire.crcReflected s.crcAcc b }) ∧
      (s.frArmed = some (.pay, n) → s.frSlot = some f → s.frFilled < f.payload.length →
        exec .deliver s = .next { s with
          rx := rx, frFilled := s.frFilled + 1
          frSlot := some { f with payload := f.payload.set s.frFilled (some b) }
          crcAcc := crcStep s.params.wire.crcReflected s.crcAcc b }))

/-- R85, R89, R90, R92: completion in AwaitToken, AwaitHeader and AwaitPayload. -/
def Obligations.CompletionArmsTheNextBlock : Prop :=
  ∀ (s : State) (t : Target), s.frArmed = some (t, s.frFilled) →
    (s.frPhase = .awaitToken → s.frTok = 0x7E#8 →
      exec .transferComplete s = .next { s with
        crcAcc := 0x0000#16, frArmed := some (.hdr, 2), frFilled := 0, frPhase := .awaitHeader
        frSlot := some { id := none, size := none, payload := List.replicate 32 none,
                         discard := decide (32 ≤ s.q.length) } }) ∧
    (s.frPhase = .awaitToken → s.frTok ≠ 0x7E#8 →
      exec .transferComplete s = .next { s with frArmed := some (.tok, 1), frFilled := 0 }) ∧
    (s.frPhase = .awaitHeader →
      exec .transferComplete s = .next { s with
        frExpected := s.crcAcc, frArmed := some (.crc, 2), frFilled := 0, frPhase := .awaitHeaderCrc }) ∧
    (s.frPhase = .awaitPayload →
      exec .transferComplete s = .next { s with
        frExpected := s.crcAcc, frArmed := some (.crc, 2), frFilled := 0, frPhase := .awaitPayloadCrc })

/-- R85, R91, R93, R99, R100: completion in AwaitHeaderCrc and in AwaitPayloadCrc, with the header's bytes arrived. -/
def Obligations.CompletionChecksTheCrc : Prop :=
  ∀ (s : State) (t : Target) (f : InFlight) (id size : Byte),
    s.frArmed = some (t, s.frFilled) → s.frSlot = some f → f.id = some id → f.size = some size →
    (s.frPhase = .awaitHeaderCrc →
      exec .transferComplete s =
        if s.frExpected = le16 s.frCrc0 s.frCrc1 ∧ size.toNat ≤ 32 then
          if size.toNat = 0 then
            .next { s with
              q := if f.discard then s.q
                   else s.q ++ [{ id := id, size := size, payload := f.payload, received := true }]
              frSlot := none, frArmed := some (.tok, 1), frFilled := 0, frPhase := .awaitToken }
          else
            .next { s with
              crcAcc := 0x0000#16, frArmed := some (.pay, size.toNat), frFilled := 0, frPhase := .awaitPayload }
        else .next { s with frSlot := none, frArmed := some (.tok, 1), frFilled := 0, frPhase := .awaitToken }) ∧
    (s.frPhase = .awaitPayloadCrc →
      exec .transferComplete s = .next { s with
        q := if s.frExpected = le16 s.frCrc0 s.frCrc1 ∧ f.discard = false then
               s.q ++ [{ id := id, size := size, payload := f.payload, received := true }]
             else s.q
        frSlot := none, frArmed := some (.tok, 1), frFilled := 0, frPhase := .awaitToken })

/-- R98, R99, R100: the operations on the in-flight slot. -/
def Obligations.SlotOperations : Prop :=
  ∀ (s : State) (f : InFlight) (id size : Byte),
    exec .allocSlot s = .next { s with
      frSlot := some { id := none, size := none, payload := List.replicate 32 none,
                       discard := decide (32 ≤ s.q.length) } } ∧
    exec .drop s = .next { s with frSlot := none } ∧
    (s.frSlot = some f → f.id = some id → f.size = some size →
      exec .store s = .next { s with
        frSlot := none
        q := if f.discard then s.q
             else s.q ++ [{ id := id, size := size, payload := f.payload, received := true }] })

/-- R96 (a), (b1): a framer waiting for a token with room in the queue takes a packet with a payload and a good header in
`size + 12` turns, and stores its message exactly if the two payload-CRC bytes are the payload's CRC; either way it is
back in AwaitToken and has consumed exactly the packet. -/
def Obligations.PayloadPacketIsStoredIffItsCrcMatches : Prop :=
  ∀ (s : State) (id c0 c1 : Byte) (payload tail : List Byte) (rest : List Turn),
    stopped s = false → s.frPhase = .awaitToken → s.frArmed = some (.tok, 1) → s.frFilled = 0 → s.q.length < 32 →
    1 ≤ payload.length → payload.length ≤ 32 →
    s.rx = [0x7E#8, id, BitVec.ofNat 8 payload.length]
      ++ le16bytes (crc16 s.params.wire.crcReflected [id, BitVec.ofNat 8 payload.length]) ++ payload ++ [c0, c1] ++ tail →
    s.sched = List.replicate (payload.length + 12) .framer ++ rest →
    ∃ t, Host.Core.run Sys2Proof.core (payload.length + 12) s = .next t ∧
      t.q = (if crc16 s.params.wire.crcReflected payload = le16 c0 c1 then
               s.q ++ [{ id := id, size := BitVec.ofNat 8 payload.length
                         payload := payload.map some ++ List.replicate (32 - payload.length) none, received := true }]
             else s.q) ∧
      t.rx = tail ∧ t.sched = rest ∧ t.frPhase = .awaitToken ∧ t.frArmed = some (.tok, 1) ∧ t.frFilled = 0 ∧
      t.frSlot = none ∧ t.log = s.log ∧ t.tx = s.tx ∧ t.fault = none

/-- R96 (c), R91: a header with size 0 stores an empty message in eight turns, without a payload phase; with a wrong
header CRC, or a size above 32, the header is dropped in eight turns. -/
def Obligations.HeaderAloneIsStoredOrDropped : Prop :=
  ∀ (s : State) (id size c0 c1 : Byte) (tail : List Byte) (rest : List Turn),
    stopped s = false → s.frPhase = .awaitToken → s.frArmed = some (.tok, 1) → s.frFilled = 0 → s.q.length < 32 →
    (size.toNat = 0 ∨ 32 < size.toNat ∨ crc16 s.params.wire.crcReflected [id, size] ≠ le16 c0 c1) →
    s.rx = [0x7E#8, id, size, c0, c1] ++ tail → s.sched = List.replicate 8 .framer ++ rest →
    ∃ t, Host.Core.run Sys2Proof.core 8 s = .next t ∧
      t.q = (if crc16 s.params.wire.crcReflected [id, size] = le16 c0 c1 ∧ size.toNat = 0 then
               s.q ++ [{ id := id, size := size, payload := List.replicate 32 none, received := true }]
             else s.q) ∧
      t.rx = tail ∧ t.sched = rest ∧ t.frPhase = .awaitToken ∧ t.frArmed = some (.tok, 1) ∧ t.frFilled = 0 ∧
      t.frSlot = none ∧ t.log = s.log ∧ t.tx = s.tx ∧ t.fault = none

/-! ### The commands -/

/-- R112: MODE_CHANGE with valid operands and a free lock discards the primitives and enters the mode, the lock given back;
with operands that are not valid it logs InvalidMode and does nothing else, whatever holds the lock. -/
def Obligations.ModeChangeIsAllOrNothing : Prop :=
  ∀ (s : State) (mode depth palette font : Byte) (w h : Word16),
    (s.lock = .free → w ≠ 0#16 → h ≠ 0#16 → mode.toNat = 0 →
      exec (.modeChange mode w h depth palette font) s = .next { s with prims := [], mode := .text w h font }) ∧
    (∀ d, s.lock = .free → w ≠ 0#16 → h ≠ 0#16 → Depth.ofNat? depth.toNat = some d →
      h.toNat * stride w.toNat d.bits ≤ s.params.planeOffset →
      s.params.planeOffset + h.toNat * stride w.toNat d.bits ≤ s.params.extMemSize →
      (mode.toNat = 1 →
        exec (.modeChange mode w h depth palette font) s = .next { s with
          prims := []
          mode := .graphic2D { width := w, height := h, depth := d, palette := decide (palette ≠ 0#8) } }) ∧
      (mode.toNat = 2 →
        exec (.modeChange mode w h depth palette font) s = .next { s with
          prims := []
          mode := .graphic3D { width := w, height := h, depth := d, palette := decide (palette ≠ 0#8) }
            { proj := Mat4.identity, mesh := [], meshState := .idle, angle := 0#32 } })) ∧
    ((2 < mode.toNat ∨ w = 0#16 ∨ h = 0#16 ∨
        (mode.toNat ≠ 0 ∧ (depth.toNat ∉ [1, 2, 4, 8, 12, 16] ∨
          s.params.planeOffset < h.toNat * stride w.toNat depth.toNat ∨
          s.params.extMemSize < s.params.planeOffset + h.toNat * stride w.toNat depth.toNat))) →
      exec (.modeChange mode w h depth palette font) s = .next { s with log := s.log ++ [.invalidMode] })

/-- R113, R114, R115, R116, R111: the drawing commands, in a Graphic mode and in Text. -/
def Obligations.DrawingCommands : Prop :=
  ∀ (s : State) (x0 y0 x1 y1 x2 y2 : Word16) (color : Pixel),
    ((∃ g, s.mode.screen? = some g) →
      exec (.setPixel x0 y0 color) s = .next { s with
        prims := s.prims ++ [.span { y := y0, x0 := x0.toNat, x1 := x0.toNat, color := color }] } ∧
      exec (.drawLine x0 y0 x1 y1 color) s = .next { s with
        prims := s.prims ++ (bresenham x0.toNat y0.toNat x1.toNat y1.toNat).map fun p =>
          .span { y := BitVec.ofInt 16 p.y, x0 := p.x, x1 := p.x, color := color } } ∧
      exec (.drawTriangle x0 y0 x1 y1 x2 y2 color) s =
        exec (.addTriangle ⟨x0.toNat, y0.toNat⟩ ⟨x1.toNat, y1.toNat⟩ ⟨x2.toNat, y2.toNat⟩ color) s ∧
      (∃ t, exec (.drawTriangle x0 y0 x1 y1 x2 y2 color) s = .next { s with prims := s.prims ++ [.tri t] }) ∧
      exec (.clearScreen color) s = .next { s with prims := [], clearColor := color }) ∧
    (s.mode.screen? = none →
      exec (.setPixel x0 y0 color) s = .next { s with log := s.log ++ [.wrongMode s.params.wire.ids.setPixel] } ∧
      exec (.drawLine x0 y0 x1 y1 color) s =
        .next { s with log := s.log ++ [.wrongMode s.params.wire.ids.drawLine] } ∧
      exec (.drawTriangle x0 y0 x1 y1 x2 y2 color) s =
        .next { s with log := s.log ++ [.wrongMode s.params.wire.ids.drawTriangle] } ∧
      exec (.clearScreen color) s =
        .next { s with log := s.log ++ [.wrongMode s.params.wire.ids.clearScreen] })

/-- R118, R119, R120, R121, R145, R111: the mesh and projection commands, in Graphic3D and elsewhere. The binary32 numbers
1, 2 and -1 are 3F800000, 40000000 and BF800000. -/
def Obligations.MeshCommands : Prop :=
  ∀ (s : State) (x y z : F32) (color : Pixel) (angle aspect near far : F32),
    (∀ g m, s.mode = .graphic3D g m →
      exec .beginPrimitives s = .next { s with mode := .graphic3D g { m with mesh := [], meshState := .open_ } } ∧
      exec (.setPerspective angle aspect near far) s =
        .next { s with mode := .graphic3D g { m with proj :=
          { r0 := ⟨f32Div (f32Div 0x3F800000#32 (tan32 (f32Div angle 0x40000000#32))) aspect, 0#32, 0#32, 0#32⟩
            r1 := ⟨0#32, f32Div 0x3F800000#32 (tan32 (f32Div angle 0x40000000#32)), 0#32, 0#32⟩
            r2 := ⟨0#32, 0#32, f32Div (f32Add far near) (f32Sub near far),
              f32Div (f32Mul (f32Mul 0x40000000#32 far) near) (f32Sub near far)⟩
            r3 := ⟨0#32, 0#32, 0xBF800000#32, 0#32⟩ } } } ∧
      (m.meshState = .open_ →
        exec .endPrimitives s = .next { s with mode := .graphic3D g { m with meshState := .closed } } ∧
        exec (.writeVertex x y z color) s =
          .next { s with mode := .graphic3D g { m with mesh := m.mesh ++ [⟨x, y, z, color⟩] } }) ∧
      (m.meshState ≠ .open_ →
        exec .endPrimitives s = .next { s with log := s.log ++ [.meshNotOpen] } ∧
        exec (.writeVertex x y z color) s = .next { s with log := s.log ++ [.meshNotOpen] })) ∧
    ((∀ g m, s.mode ≠ .graphic3D g m) →
      exec .beginPrimitives s = .next { s with log := s.log ++ [.wrongMode s.params.wire.ids.beginPrimitives] } ∧
      exec .endPrimitives s = .next { s with log := s.log ++ [.wrongMode s.params.wire.ids.endPrimitives] } ∧
      exec (.writeVertex x y z color) s =
        .next { s with log := s.log ++ [.wrongMode s.params.wire.ids.writeVertex] } ∧
      exec (.setPerspective angle aspect near far) s =
        .next { s with log := s.log ++ [.wrongMode s.params.wire.ids.setPerspective] })

/-- R117, R155: SWAP_BUFFER exchanges the ids in every mode once the lock is free, and gives the lock back; `swap` exchanges
them at once; nothing else is touched. -/
def Obligations.SwapsExchangeTheIds : Prop :=
  ∀ s : State,
    (s.lock = .free → exec .swapBuffer s = .next { s with readId := s.writeId, writeId := s.readId }) ∧
    exec .swap s = .next { s with readId := s.writeId, writeId := s.readId }

/-- R122: INFO_REQUEST puts the INFO_RESPONSE packet of the mode, the screen and the ids on `tx`, in every mode, and changes
nothing else; on the stream to the Host the packet decodes to that INFO_RESPONSE (its direction operand is the model's: log
19). -/
def Obligations.InfoRequestAnswersWithTheState : Prop :=
  ∀ (s : State) (stale : Nat → Byte) (more : List Byte),
    let answer : Instr := .infoResponse .toHost
      (match s.mode with | .text .. => 0#8 | .graphic2D _ => 1#8 | .graphic3D .. => 2#8) s.mode.width s.mode.height
      (match s.mode.screen? with | some g => BitVec.ofNat 8 g.depth.bits | none => 0#8)
      (match s.readId with | .zero => 0#8 | .one => 1#8) (match s.writeId with | .zero => 0#8 | .one => 1#8)
    ∃ bs, encode s.params.wire answer = some bs ∧ exec .infoRequest s = .next { s with tx := s.tx ++ bs } ∧
      decode s.params.wire .toHost stale (bs ++ more) = .ok (answer, more)

/-- R109, R123: an unknown id is logged; an INFO_RESPONSE the Host sends is one; sent by the block it is its packet on
`tx`, 15 bytes long. -/
def Obligations.UnknownIdsAndInfoResponses : Prop :=
  ∀ (s : State) (id : Byte) (payload : List Byte) (mode depth r w : Byte) (width height : Word16),
    exec (.unknownId id payload) s = .next { s with log := s.log ++ [.unknownId id] } ∧
    exec (.infoResponse .toBlock mode width height depth r w) s =
      .next { s with log := s.log ++ [.unknownId s.params.wire.ids.infoResponse] } ∧
    ∃ bs, encode s.params.wire (.infoResponse .toHost mode width height depth r w) = some bs ∧ bs.length = 15 ∧
      exec (.infoResponse .toHost mode width height depth r w) s = .next { s with tx := s.tx ++ bs }

/-- R105: `register` installs a handler for its id alone, replacing an earlier one; `0xFF` has no slot and is refused. -/
def Obligations.RegisterInstallsOneHandler : Prop :=
  ∀ (s : State) (id : Byte) (k : CommandKind),
    (id ≠ 0xFF#8 → ∃ t, exec (.register id k) s = .next t ∧ handlerOf t id = some k ∧
      (∀ j, j ≠ id → handlerOf t j = handlerOf s j) ∧ t = { s with handlers := t.handlers }) ∧
    exec (.register 0xFF#8 k) s = .next { s with refused := some .noHandlerSlot }

/-- R101, R107, R108, R109 (log 8 for where the popped message is held, log 2 for having no step, log 33 for both outside a
drain): `pop` takes the oldest
message; `dispatch` with a free lock takes the popped message and goes on as the command its id is registered for, or logs
the id. -/
def Obligations.PopAndDispatch : Prop :=
  ∀ (s : State) (m : Message) (rest : List Message),
    (s.q = m :: rest → exec .pop s = .next { s with q := rest, aMsg := some m }) ∧
    (s.q = [] → exec .pop s = .next s) ∧
    (s.aMsg = some m → s.lock = .free → ∀ k, handlerOf s m.id = some k →
      ∃ t, exec .dispatch s = .next t ∧ t.aMsg = none ∧
        exec (instrOf k (drawnBytes m k.size s)) { s with aMsg := none, draws := s.draws + k.size } = .next t) ∧
    (s.aMsg = some m → handlerOf s m.id = none →
      exec .dispatch s = .next { s with aMsg := none, log := s.log ++ [.unknownId m.id] }) ∧
    (s.aMsg = none → exec .dispatch s = .next s)

/-! ### Arithmetic and geometry -/

/-- R11, R121: for finite operands the four binary32 operations, and the conversion of an integer, give the nearest value,
and at a tie the one whose last bit is 0: no finite `c` is nearer to the exact result. Values are whole multiples of 2^-149,
which `f32Val` gives; products and quotients are compared after multiplying out. The result is finite exactly while the exact
one is below the largest finite value and half a place more, and an infinity of its sign from there on. Then the signs of
zero results, division by zero, infinities, NaN, and the order and the magnitude that R128 and R142 use; 7F800000 and
FF800000 are the infinities, 80000000 the sign bit. -/
def Obligations.ArithmeticRoundsToNearest : Prop :=
  ∀ (a b c : F32) (n : Int),
    (f32Finite a = true → f32Finite b = true → f32Finite c = true →
      (f32Finite (f32Add a b) = true →
        (f32Val (f32Add a b) - (f32Val a + f32Val b)).natAbs ≤ (f32Val c - (f32Val a + f32Val b)).natAbs ∧
        ((f32Val (f32Add a b) - (f32Val a + f32Val b)).natAbs = (f32Val c - (f32Val a + f32Val b)).natAbs →
          f32Val c = f32Val (f32Add a b) ∨ (f32Add a b).toNat % 2 = 0)) ∧
      (f32Finite (f32Sub a b) = true →
        (f32Val (f32Sub a b) - (f32Val a - f32Val b)).natAbs ≤ (f32Val c - (f32Val a - f32Val b)).natAbs ∧
        ((f32Val (f32Sub a b) - (f32Val a - f32Val b)).natAbs = (f32Val c - (f32Val a - f32Val b)).natAbs →
          f32Val c = f32Val (f32Sub a b) ∨ (f32Sub a b).toNat % 2 = 0)) ∧
      (f32Finite (f32Mul a b) = true →
        (f32Val (f32Mul a b) * 2 ^ 149 - f32Val a * f32Val b).natAbs ≤
          (f32Val c * 2 ^ 149 - f32Val a * f32Val b).natAbs ∧
        ((f32Val (f32Mul a b) * 2 ^ 149 - f32Val a * f32Val b).natAbs =
            (f32Val c * 2 ^ 149 - f32Val a * f32Val b).natAbs →
          f32Val c = f32Val (f32Mul a b) ∨ (f32Mul a b).toNat % 2 = 0)) ∧
      (f32Val b ≠ 0 → f32Finite (f32Div a b) = true →
        (f32Val (f32Div a b) * f32Val b - f32Val a * 2 ^ 149).natAbs ≤
          (f32Val c * f32Val b - f32Val a * 2 ^ 149).natAbs ∧
        ((f32Val (f32Div a b) * f32Val b - f32Val a * 2 ^ 149).natAbs =
            (f32Val c * f32Val b - f32Val a * 2 ^ 149).natAbs →
          f32Val c = f32Val (f32Div a b) ∨ (f32Div a b).toNat % 2 = 0)) ∧
      (f32Finite (f32OfInt n) = true →
        (f32Val (f32OfInt n) - n * 2 ^ 149).natAbs ≤ (f32Val c - n * 2 ^ 149).natAbs ∧
        ((f32Val (f32OfInt n) - n * 2 ^ 149).natAbs = (f32Val c - n * 2 ^ 149).natAbs →
          f32Val c = f32Val (f32OfInt n) ∨ (f32OfInt n).toNat % 2 = 0))) ∧
    (let limit : Nat := (2 ^ 25 - 1) * 2 ^ 252
     let infinity := fun negative : Bool => if negative then 0xFF800000#32 else 0x7F800000#32
     f32Finite a = true → f32Finite b = true →
      ((f32Val a + f32Val b).natAbs < limit → f32Finite (f32Add a b) = true) ∧
      (limit ≤ (f32Val a + f32Val b).natAbs → f32Add a b = infinity (decide (f32Val a + f32Val b < 0))) ∧
      (f32Val a + f32Val b = 0 → f32Add a b = if a.msb && b.msb then 0x80000000#32 else 0#32) ∧
      ((f32Val a * f32Val b).natAbs < limit * 2 ^ 149 → f32Finite (f32Mul a b) = true) ∧
      (limit * 2 ^ 149 ≤ (f32Val a * f32Val b).natAbs → f32Mul a b = infinity (a.msb != b.msb)) ∧
      (f32Mul a b).msb = (a.msb != b.msb) ∧
      (f32Val b ≠ 0 →
        ((f32Val a).natAbs * 2 ^ 149 < limit * (f32Val b).natAbs → f32Finite (f32Div a b) = true) ∧
        (limit * (f32Val b).natAbs ≤ (f32Val a).natAbs * 2 ^ 149 → f32Div a b = infinity (a.msb != b.msb)) ∧
        (f32Div a b).msb = (a.msb != b.msb)) ∧
      (f32Val b = 0 →
        (f32Val a ≠ 0 → f32Div a b = infinity (a.msb != b.msb)) ∧ (f32Val a = 0 → f32IsNaN (f32Div a b) = true)) ∧
      (n.natAbs * 2 ^ 149 < limit → f32Finite (f32OfInt n) = true) ∧
      (limit ≤ n.natAbs * 2 ^ 149 → f32OfInt n = infinity (decide (n < 0))) ∧
      f32Lt a b = decide (f32Val a < f32Val b)) ∧
    f32IsNaN (f32Sub a b) = f32IsNaN (f32Add a (b ^^^ 0x80000000#32)) ∧
    (f32IsNaN (f32Sub a b) = false → f32Sub a b = f32Add a (b ^^^ 0x80000000#32)) ∧
    (f32IsNaN a = true ∨ f32IsNaN b = true →
      f32IsNaN (f32Add a b) = true ∧ f32IsNaN (f32Mul a b) = true ∧ f32IsNaN (f32Div a b) = true ∧ f32Lt a b = false) ∧
    (f32IsInf a = true → f32IsNaN b = false →
      (b = a ^^^ 0x80000000#32 → f32IsNaN (f32Add a b) = true ∧ f32IsNaN (f32Add b a) = true) ∧
      (b ≠ a ^^^ 0x80000000#32 → f32Add a b = a ∧ f32Add b a = a) ∧
      (f32IsZero b = true → f32IsNaN (f32Mul a b) = true ∧ f32IsNaN (f32Mul b a) = true) ∧
      (f32IsZero b = false →
        f32Mul a b = (if a.msb = b.msb then 0x7F800000#32 else 0xFF800000#32) ∧
        f32Mul b a = (if a.msb = b.msb then 0x7F800000#32 else 0xFF800000#32)) ∧
      (f32IsInf b = true → f32IsNaN (f32Div a b) = true) ∧
      (f32IsInf b = false →
        f32Div a b = (if a.msb = b.msb then 0x7F800000#32 else 0xFF800000#32) ∧
        f32Div b a = (if a.msb = b.msb then 0#32 else 0x80000000#32))) ∧
    (f32IsNaN a = false →
      f32Lt a 0x7F800000#32 = decide (a ≠ 0x7F800000#32) ∧ f32Lt 0xFF800000#32 a = decide (a ≠ 0xFF800000#32) ∧
      f32Lt 0x7F800000#32 a = false ∧ f32Lt a 0xFF800000#32 = false) ∧
    (f32Abs a).toNat = a.toNat % 2 ^ 31 ∧ f32Val (f32Abs a) = (f32Val a).natAbs

/-- R11: for a finite value, `round` gives the nearest integer, halves away from zero, and `trunc` the integer part toward
zero; an integer of magnitude at most 2^24 survives conversion to binary32 and back by either. -/
def Obligations.ConversionsToIntegers : Prop :=
  ∀ (x : F32) (n : Int), f32Finite x = true →
    2 * (f32RoundAway x * 2 ^ 149 - f32Val x).natAbs ≤ 2 ^ 149 ∧
    (2 * (f32RoundAway x * 2 ^ 149 - f32Val x).natAbs = 2 ^ 149 →
      (f32Val x).natAbs < (f32RoundAway x * 2 ^ 149).natAbs) ∧
    (f32Trunc x * 2 ^ 149).natAbs ≤ (f32Val x).natAbs ∧ (f32Val x - f32Trunc x * 2 ^ 149).natAbs < 2 ^ 149 ∧
    (n.natAbs ≤ 2 ^ 24 →
      f32Finite (f32OfInt n) = true ∧ f32RoundAway (f32OfInt n) = n ∧ f32Trunc (f32OfInt n) = n)

/-- R127, R128: `add_triangle` queues the prepared triangle of its vertices sorted by `(y, x)`. -/
def Obligations.AddTriangleQueuesPreparedTriangle : Prop :=
  ∀ (s : State) (v0 v1 v2 a b c : Point) (color : Pixel), [a, b, c].Perm [v0, v1, v2] →
    (a.y < b.y ∨ (a.y = b.y ∧ a.x ≤ b.x)) → (b.y < c.y ∨ (b.y = c.y ∧ b.x ≤ c.x)) →
    let slopeOf := fun p r : Point =>
      if r.y = p.y then f32OfInt (r.x - p.x) else f32Div (f32OfInt (r.x - p.x)) (f32OfInt (r.y - p.y))
    exec (.addTriangle v0 v1 v2 color) s = .next { s with prims := s.prims ++ [.tri
      { dx1 := slopeOf a b, dx2 := slopeOf a c, dx3 := slopeOf b c, sx := f32OfInt a.x
        ex := if a.y = c.y then f32OfInt c.x
              else if a.y = b.y then f32Add (f32OfInt a.x) (slopeOf a b) else f32OfInt a.x
        minY := BitVec.ofInt 16 a.y, midY := BitVec.ofInt 16 b.y, maxY := BitVec.ofInt 16 c.y
        longLeft := if a.y = c.y then true else if a.y = b.y then true else f32Lt (slopeOf a c) (slopeOf a b)
        color := color }] }

/-- R115, R128: the order of the three vertices does not matter. -/
def Obligations.VertexOrderDoesNotMatter : Prop :=
  ∀ (s : State) (a b c : Point) (color : Pixel),
    exec (.addTriangle a b c color) s = exec (.addTriangle b a c color) s ∧
    exec (.addTriangle a b c color) s = exec (.addTriangle a c b color) s

/-- R131: a line starts at its first end point, ends at its second, moves at most one pixel a step in each direction, and
passes its second end point only at the end. Which pixel comes next is what the rule's error term says, and no pixel is
further than half a pixel, along the shorter axis, from the straight line. -/
def Obligations.LineJoinsItsEndPoints : Prop :=
  ∀ x0 y0 x1 y1 : Int,
    (bresenham x0 y0 x1 y1).head? = some ⟨x0, y0⟩ ∧ (bresenham x0 y0 x1 y1).getLast? = some ⟨x1, y1⟩ ∧
    (bresenham x0 y0 x1 y1).length = max (x1 - x0).natAbs (y1 - y0).natAbs + 1 ∧
    (∀ n p r, (bresenham x0 y0 x1 y1)[n]? = some p → (bresenham x0 y0 x1 y1)[n + 1]? = some r →
      (r.x - p.x).natAbs ≤ 1 ∧ (r.y - p.y).natAbs ≤ 1 ∧ p ≠ ⟨x1, y1⟩) ∧
    (∃ err : Nat → Int, err 0 = (x1 - x0).natAbs - (y1 - y0).natAbs ∧
      ∀ n p r, (bresenham x0 y0 x1 y1)[n]? = some p → (bresenham x0 y0 x1 y1)[n + 1]? = some r →
        r.x = p.x + (if -((y1 - y0).natAbs : Int) ≤ 2 * err n then (if x0 < x1 then 1 else -1) else 0) ∧
        r.y = p.y + (if 2 * err n ≤ (x1 - x0).natAbs then (if y0 < y1 then 1 else -1) else 0) ∧
        err (n + 1) = err n - (if -((y1 - y0).natAbs : Int) ≤ 2 * err n then ((y1 - y0).natAbs : Int) else 0)
          + (if 2 * err n ≤ (x1 - x0).natAbs then ((x1 - x0).natAbs : Int) else 0)) ∧
    ∀ p, p ∈ bresenham x0 y0 x1 y1 →
      2 * ((p.x - x0) * (y1 - y0) - (p.y - y0) * (x1 - x0)).natAbs ≤ max (x1 - x0).natAbs (y1 - y0).natAbs

/-- R138, R132, R144, R169: flattening a closed mesh whose whole groups of three map to pixels empties it and queues one triangle
for each group, prepared from the three pixels with the color of the first vertex; the first vertex of a whole group that
maps to no pixel raises NonFiniteVertex, with the triangles of the groups before its own queued and the mesh kept; a mesh
that is not closed, and another mode, are left alone. That `flatten` runs by itself, outside a pass, is log 32. A render pass
over a closed mesh is the pass over what flattening it leaves, and where that raises the fault the pass ends there, with the
lock held. -/
def Obligations.FlattenEmptiesAClosedMesh : Prop :=
  ∀ s : State,
    (∀ g m, s.mode = .graphic3D g m → m.meshState = .closed →
      (∀ i v, i < m.mesh.length / 3 * 3 → m.mesh[i]? = some v → toPixel? s.params g m v ≠ none) →
      ∃ ts : List Tri, ts.length = m.mesh.length / 3 ∧
        (∀ k v0 v1 v2 p0 p1 p2, m.mesh[3 * k]? = some v0 → m.mesh[3 * k + 1]? = some v1 → m.mesh[3 * k + 2]? = some v2 →
          toPixel? s.params g m v0 = some p0 → toPixel? s.params g m v1 = some p1 →
          toPixel? s.params g m v2 = some p2 → ts[k]? = some (prepare p0 p1 p2 v0.color)) ∧
        exec .flatten s = .next { s with
          prims := s.prims ++ ts.map .tri
          mode := .graphic3D g { m with mesh := [], meshState := .idle } }) ∧
    (∀ g m v pre post, s.mode = .graphic3D g m → m.meshState = .closed → m.mesh = pre ++ v :: post →
      pre.length / 3 * 3 + 3 ≤ m.mesh.length → (∀ u, u ∈ pre → toPixel? s.params g m u ≠ none) →
      toPixel? s.params g m v = none →
      ∃ ts : List Tri, ts.length = pre.length / 3 ∧
        (∀ k v0 v1 v2 p0 p1 p2, k < pre.length / 3 →
          m.mesh[3 * k]? = some v0 → m.mesh[3 * k + 1]? = some v1 → m.mesh[3 * k + 2]? = some v2 →
          toPixel? s.params g m v0 = some p0 → toPixel? s.params g m v1 = some p1 →
          toPixel? s.params g m v2 = some p2 → ts[k]? = some (prepare p0 p1 p2 v0.color)) ∧
        exec .flatten s = .next { s with prims := s.prims ++ ts.map .tri, fault := some (.nonFiniteVertex v) }) ∧
    ((∀ g m, s.mode = .graphic3D g m → m.meshState ≠ .closed) → exec .flatten s = .next s) ∧
    (∀ g m l, s.mode = .graphic3D g m → m.meshState = .closed → s.aPhase = .render l → s.lock = .free → s.bus = .free →
      ((∀ i v, i < m.mesh.length / 3 * 3 → m.mesh[i]? = some v → toPixel? s.params g m v ≠ none) →
        ∃ u, exec .flatten s = .next u ∧ u.mode = .graphic3D g { m with mesh := [], meshState := .idle } ∧
          exec .render s = exec .render u) ∧
      (∀ v pre post, m.mesh = pre ++ v :: post → pre.length / 3 * 3 + 3 ≤ m.mesh.length →
        (∀ u, u ∈ pre → toPixel? s.params g m u ≠ none) → toPixel? s.params g m v = none →
        ∃ u, exec .flatten s = .next u ∧ u.fault = some (.nonFiniteVertex v) ∧
          exec .render s = .next { u with lock := .held .a }))

/-! ### FrameStore -/

/-- R151: the segments of a transfer are its range in order, none is empty, none crosses a page, and every one but the last
ends at a page boundary. -/
def Obligations.SegmentsSplitAtPages : Prop :=
  ∀ a n : Nat,
    (segments a n).flatMap (fun p => (List.range p.2).map (p.1 + ·)) = (List.range n).map (a + ·) ∧
    (∀ p, p ∈ segments a n → 1 ≤ p.2 ∧ p.2 ≤ 1024 ∧ p.1 / 1024 = (p.1 + p.2 - 1) / 1024) ∧
    ∀ i p r, (segments a n)[i]? = some p → (segments a n)[i + 1]? = some r → (p.1 + p.2) % 1024 = 0

/-- R43, R126, R149, R162: a packed line is the least whole number of bytes that holds its pixels; bit `k` of it, bit
`k mod 8` of byte `k div 8`, is bit `k mod d` of pixel `k div d`, and 0 after the last pixel. Unpacking reads the pixels from
the same bits of any bytes, whatever stands after them; so unpacking a packed line gives its pixels, at every depth. -/
def Obligations.UnpackOfPack : Prop :=
  ∀ d : Depth,
    (∀ lb : List Pixel, (∀ p, p ∈ lb → p.toNat < 2 ^ d.bits) → unpack d.bits lb.length (pack d.bits lb) = lb) ∧
    (∀ lb : List Pixel, (pack d.bits lb).length = (lb.length * d.bits + 7) / 8 ∧
      ∀ k byte, (pack d.bits lb)[k / 8]? = some byte →
        (∀ p, lb[k / d.bits]? = some p → byte.getLsbD (k % 8) = p.getLsbD (k % d.bits)) ∧
        (lb.length ≤ k / d.bits → byte.getLsbD (k % 8) = false)) ∧
    ∀ (n : Nat) (bs : List Byte), n * d.bits ≤ 8 * bs.length →
      (unpack d.bits n bs).length = n ∧
      ∀ i p, (unpack d.bits n bs)[i]? = some p → p.toNat < 2 ^ d.bits ∧
        ∀ j byte, j < d.bits → bs[(i * d.bits + j) / 8]? = some byte →
          p.getLsbD j = byte.getLsbD ((i * d.bits + j) % 8)

/-- R152: `write_line` with the bus free and the line inside memory writes exactly the line's bytes on the write plane, gives
the bus back, and changes nothing else; where a segment passes the end of memory, the first such segment raises ExtMemRange
at its start with the bytes before it written. However it ends, no byte outside the line's range changes, and nothing but
memory, the bus and the fault. -/
def Obligations.WriteLineWritesItsBytesOnly : Prop :=
  ∀ (s : State) (g : Screen) (y : Nat) (data : List Byte), s.mode.screen? = some g →
    (s.bus = .free → lineAddr s.params g s.writeId y + data.length ≤ s.params.extMemSize →
      ∃ t, exec (.writeLine y data) s = .next t ∧ t = { s with ext := t.ext } ∧
        ∀ i, i < data.length → some (extByte t (lineAddr s.params g s.writeId y + i)) = data[i]?) ∧
    (∀ pre post x k, s.bus = .free →
      segments (lineAddr s.params g s.writeId y) data.length = pre ++ (x, k) :: post →
      (∀ p, p ∈ pre → p.1 + p.2 ≤ s.params.extMemSize) → s.params.extMemSize < x + k →
      ∃ t, exec (.writeLine y data) s = .next t ∧ t.fault = some (.extMemRange x) ∧
        (∀ i, lineAddr s.params g s.writeId y + i < x →
          some (extByte t (lineAddr s.params g s.writeId y + i)) = data[i]?) ∧
        ∀ a, x ≤ a → extByte t a = extByte s a) ∧
    (∀ t, exec (.writeLine y data) s = .next t →
      t = { s with ext := t.ext, bus := t.bus, fault := t.fault } ∧
      ∀ a, (a < lineAddr s.params g s.writeId y ∨ lineAddr s.params g s.writeId y + data.length ≤ a) →
        extByte t a = extByte s a)

/-- R45, R152, R153, R169: a `write_line` that starts past the end of memory raises ExtMemRange there, holds the bus (as
context A: log 13) and writes nothing; `read_line` likewise (as context B), and where a later segment is the first to pass
the end it raises ExtMemRange at that segment's start and returns nothing; in Text mode both are refused (log 12). -/
def Obligations.LineTransfersThatFail : Prop :=
  ∀ (s : State) (y n : Nat) (data : List Byte),
    (∀ g, s.mode.screen? = some g → s.bus = .free → data ≠ [] → s.params.extMemSize ≤ lineAddr s.params g s.writeId y →
      exec (.writeLine y data) s = .next { s with
        bus := .held .a, fault := some (.extMemRange (lineAddr s.params g s.writeId y)) }) ∧
    (∀ g, s.mode.screen? = some g → s.bus = .free → 1 ≤ n → s.params.extMemSize ≤ lineAddr s.params g s.readId y →
      exec (.readLine y n) s = .next { s with
        bus := .held .b, fault := some (.extMemRange (lineAddr s.params g s.readId y)) }) ∧
    (∀ g pre post x k, s.mode.screen? = some g → s.bus = .free →
      segments (lineAddr s.params g s.readId y) n = pre ++ (x, k) :: post →
      (∀ p, p ∈ pre → p.1 + p.2 ≤ s.params.extMemSize) → s.params.extMemSize < x + k →
      exec (.readLine y n) s = .next { s with bus := .held .b, fault := some (.extMemRange x) }) ∧
    (s.mode.screen? = none →
      exec (.writeLine y data) s = .next { s with refused := some .textMode } ∧
      exec (.readLine y n) s = .next { s with refused := some .textMode })

/-- R153: `read_line` with the bus free and the line inside memory returns the line's bytes of the read plane (in the
model's own field `ret`, log 9) and changes nothing else. -/
def Obligations.ReadLineReturnsTheBytes : Prop :=
  ∀ (s : State) (g : Screen) (y n : Nat),
    s.mode.screen? = some g → s.bus = .free → lineAddr s.params g s.readId y + n ≤ s.params.extMemSize →
    exec (.readLine y n) s = .next { s with
      ret := .bytes ((List.range n).map fun i => extByte s (lineAddr s.params g s.readId y + i)) }

/-- R154: a line written, then a swap, then a read of the same length returns the data written, however many pages the
line straddles. -/
def Obligations.WrittenLineIsReadBackAfterSwap : Prop :=
  ∀ (s : State) (g : Screen) (y : Nat) (data : List Byte),
    s.mode.screen? = some g → s.bus = .free →
    lineAddr s.params g s.writeId y + data.length ≤ s.params.extMemSize →
    ∃ t u v, exec (.writeLine y data) s = .next t ∧ exec .swap t = .next u ∧
      exec (.readLine y data.length) u = .next v ∧ v.ret = .bytes data

/-- R136: in Text mode a render pass and a scanline read are refused, once they hold the lock. -/
def Obligations.TextModeIsRefused : Prop :=
  ∀ (s : State) (l : Nat), s.mode.screen? = none →
    (s.lock = .free → s.aPhase = .render l →
      exec .render s = .next { s with lock := .held .a, refused := some .textMode }) ∧
    (s.lock = .free → s.bPhase = .read →
      exec .scanlineRead s = .next { s with lock := .held .b, refused := some .textMode })

/-! ### The render pass -/

/-- R132, R129, R130, R133, R134, R124, R146, R195: a pass whose primitives, prepared triangles and spans, stay on the screen
stores, at every pixel of the write plane, the color of the last primitive whose run on that line covers it and else the
clear color. A triangle's run is from `round(sx)` to `round(ex)`, its edges advanced line by line (`spanOn`). The primitives
are gone, the tick is done, A is idle, the lock is free, a Graphic3D mode has its angle advanced, and no other byte of memory
changes. -/
def Obligations.PassDrawsTheSpans : Prop :=
  ∀ (s : State) (g : Screen) (l : Nat),
    s.mode.screen? = some g → (∀ g' m, s.mode = .graphic3D g' m → m.meshState ≠ .closed) →
    planesFit s.params g = true → s.aPhase = .render l → s.lock = .free → s.bus = .free →
    (∀ p, p ∈ s.prims → lastLine p < g.height.toNat ∧ runsInside g.width.toNat g.height.toNat p) →
    ∃ t, exec .render s = .next t ∧
      (∀ y x, y < g.height.toNat → x < g.width.toNat →
        (unpack g.depth.bits g.width.toNat
          ((List.range g.stride).map fun i => extByte t (lineAddr s.params g s.writeId y + i)))[x]? =
          some (pixelValue g.depth.bits
            ((((s.prims.filterMap (spanOn y)).filter fun q =>
              decide (q.x0 ≤ (x : Int) ∧ (x : Int) ≤ q.x1)).getLast?.map Span.color).getD s.clearColor))) ∧
      (∀ a, (a < planeBase s.params s.writeId ∨ planeBase s.params s.writeId + g.height.toNat * g.stride ≤ a) →
        extByte t a = extByte s a) ∧
      t = { s with
        ext := t.ext, lb := t.lb, prims := [], tickDone := true, aPhase := .idle
        mode := (match s.mode with
        | .graphic3D g' m => .graphic3D g' { m with angle := f32Add m.angle s.params.angleStep }
        | .graphic2D g' => .graphic2D g'
        | .text w h f => .text w h f) }

/-- R137: DRAW_TRIANGLE 1, 5, 9, 9, 9, 1, C in a Graphic mode with at least ten pixels and ten lines, and the pass after it,
fill the golden raster on lines 1 to 9 with C and leave every other pixel of the write plane at the clear color. -/
def Obligations.GoldenRaster : Prop :=
  ∀ (s : State) (g : Screen) (c : Pixel) (l : Nat),
    s.mode.screen? = some g → (∀ g' m, s.mode = .graphic3D g' m → m.meshState ≠ .closed) →
    planesFit s.params g = true → s.aPhase = .render l → s.lock = .free → s.bus = .free →
    s.prims = [] → 10 ≤ g.width.toNat → 10 ≤ g.height.toNat →
    ∃ u t, exec (.drawTriangle 1#16 5#16 9#16 9#16 9#16 1#16 c) s = .next u ∧ exec .render u = .next t ∧
      t.fault = s.fault ∧ t.prims = [] ∧
      ∀ y x, y < g.height.toNat → x < g.width.toNat →
        (unpack g.depth.bits g.width.toNat
          ((List.range g.stride).map fun i => extByte t (lineAddr s.params g s.writeId y + i)))[x]? =
          some (pixelValue g.depth.bits
            (if 1 ≤ y ∧ y ≤ 9 ∧ 9 - 2 * min (y - 1) (9 - y) ≤ x ∧ x ≤ 9 then c else s.clearColor))

/-- R125, R129, R130, R134, R135, R170, R175: a pass over prepared triangles and spans whose runs stay inside their lines
until, on line `y`, those of `pre` still do and the run of `p` leaves it raises PixelOutOfRange at the first place outside,
with the places of the run before it drawn, and that line and the later ones unwritten: so the first line, on it the first
primitive, and of that the first place. Where all runs on the screen are inside their lines and some primitive's last line
is below the screen, the pass raises TriangleNotRetired at the end, with the number of those. Either way the primitives that
are not retired are left, as far advanced as the pass came, and the lock stays held. -/
def Obligations.PassFaults : Prop :=
  ∀ (s : State) (g : Screen) (l : Nat),
    s.mode.screen? = some g → (∀ g' m, s.mode = .graphic3D g' m → m.meshState ≠ .closed) →
    planesFit s.params g = true → s.aPhase = .render l → s.lock = .free → s.bus = .free →
    (∀ pre p post y q, s.prims = pre ++ p :: post → y < g.height.toNat →
      (∀ r, r ∈ s.prims → runsInside g.width.toNat y r) → (∀ r, r ∈ pre → runsInside g.width.toNat (y + 1) r) →
      spanOn y p = some q → q.x0 ≤ q.x1 → (q.x0 < 0 ∨ (g.width.toNat : Int) ≤ q.x1) →
      ∃ t, exec .render s = .next t ∧
        t.fault = some (.pixelOutOfRange (if q.x0 < 0 then q.x0 else max q.x0 g.width.toNat) y) ∧
        t.lock = .held .a ∧
        t.prims = (pre.filter fun r => decide (y ≤ lastLine r)).map (atLine (y + 1)) ++ atLine y p ::
          (post.filter fun r => decide (y ≤ lastLine r)).map (atLine y) ∧
        (∀ x : Nat, 0 ≤ q.x0 → q.x0 ≤ (x : Int) → x < g.width.toNat →
          t.lb[x]? = some (pixelValue g.depth.bits q.color)) ∧
        ∀ a, lineAddr s.params g s.writeId y ≤ a → extByte t a = extByte s a) ∧
    ((∀ r, r ∈ s.prims → runsInside g.width.toNat g.height.toNat r) →
      (∃ r, r ∈ s.prims ∧ g.height.toNat ≤ lastLine r) →
      ∃ t, exec .render s = .next t ∧
        t.fault = some (.triangleNotRetired (s.prims.filter fun r => decide (g.height.toNat ≤ lastLine r)).length) ∧
        t.lock = .held .a ∧
        t.prims = (s.prims.filter fun r => decide (g.height.toNat ≤ lastLine r)).map (atLine g.height.toNat))

/-- The frame of `render` and `flatten` (R132, R138: State written): a pass changes no byte outside the write plane, and
`flatten` no byte at all. -/
def Obligations.RenderFrame : Prop :=
  ∀ s t : State,
    (exec .render s = .next t →
      t = { s with
        lb := t.lb, prims := t.prims, ext := t.ext, bus := t.bus, lock := t.lock, mode := t.mode
        tickDone := t.tickDone, aPhase := t.aPhase, fault := t.fault, refused := t.refused } ∧
      t.mode.screen? = s.mode.screen? ∧
      (s.mode.screen? = none → t.ext = s.ext) ∧
      ∀ g, s.mode.screen? = some g → ∀ a,
        (a < planeBase s.params s.writeId ∨ planeBase s.params s.writeId + g.height.toNat * g.stride ≤ a) →
        extByte t a = extByte s a) ∧
    (exec .flatten s = .next t →
      t = { s with prims := t.prims, mode := t.mode, fault := t.fault } ∧ ∀ a, extByte t a = extByte s a)

/-! ### Scanlines and the tick -/

/-- R157, R158, R166: B obtains the next slot and at the first line of a frame requests the tick; A takes a requested tick
when idle. -/
def Obligations.TickIsRequestedAndTaken : Prop :=
  ∀ s : State,
    (s.bPhase = .getSlot →
      exec .getSlot s = .next { s with
        bSlot := some s.dispNext
        dispNext := if s.dispNext.phys + 1 = s.params.videoLines then ⟨s.dispNext.frame + 1, 0⟩
                    else ⟨s.dispNext.frame, s.dispNext.phys + 1⟩
        tickReq := if s.dispNext.phys = 0 then true else s.tickReq
        bPhase := if s.dispNext.phys = 0 ∧ s.params.tickBlocksB = true then .waitTick else .read }) ∧
    (s.aPhase = .idle → s.tickReq = true →
      exec .renderTick s = .next { s with tickReq := false, aPhase := .drain })

/-- R160, R161, R162: B reads a line of the image from the read plane and unpacks it, with the lock taken and given back;
below the image it shows `W` drawn pixels of the mode's depth, whatever they are (log 23). The palette to show them with is
the mode's at that moment (R180; log 18). No byte of memory changes. -/
def Obligations.ScanlineReadUnpacksTheReadPlane : Prop :=
  ∀ (s : State) (g : Screen) (slot : Slot),
    s.mode.screen? = some g → s.bPhase = .read → s.bSlot = some slot → s.lock = .free → 1 ≤ s.params.vScale →
    (slot.phys / s.params.vScale < g.height.toNat → s.bus = .free → planesFit s.params g = true →
      exec .scanlineRead s = .next { s with
        bPhase := .submit, bPalette := if g.palette then some g.depth else none
        bPixels := unpack g.depth.bits g.width.toNat ((List.range g.stride).map fun i =>
          extByte s (lineAddr s.params g s.readId (slot.phys / s.params.vScale) + i)) }) ∧
    (g.height.toNat ≤ slot.phys / s.params.vScale →
      ∃ t, exec .scanlineRead s = .next t ∧ t.bPixels.length = g.width.toNat ∧
        (∀ p, p ∈ t.bPixels → p.toNat < 2 ^ g.depth.bits) ∧
        t = { s with
          bPhase := .submit, bPalette := if g.palette then some g.depth else none, bPixels := t.bPixels
          draws := s.draws + 1 })

/-- R163, R164, R165: B submits the packed line for its slot, each pixel through the palette B holds; and after a read of a
line, whatever else has changed since, that is a run of `W` pixels in the palette of the mode that B read under the lock
(R180; keeping it from the read to the submit is log 18). -/
def Obligations.SubmitAppendsTheScanline : Prop :=
  ∀ (s : State) (slot : Slot),
    (s.bPhase = .submit → s.bSlot = some slot →
      exec .submit s = .next { s with
        video := s.video ++ [(slot,
          [.rawRun s.bPixels.length (s.bPixels.map fun p =>
            match s.bPalette with
            | some d => Config.videoPixel (Config.palette d p)
            | none => Config.videoPixel p.toNat), .endOfLine])]
        bSlot := none, bPhase := .getSlot }) ∧
    ∀ (g : Screen) (t u : State),
      s.mode.screen? = some g → s.bPhase = .read → s.bSlot = some slot → s.lock = .free →
      exec .scanlineRead s = .next t → t.bPhase = .submit →
      u.bPhase = t.bPhase → u.bSlot = t.bSlot → u.bPixels = t.bPixels → u.bPalette = t.bPalette →
      exec .submit u = .next { u with
        video := u.video ++ [(slot,
          [.rawRun g.width.toNat (t.bPixels.map fun p =>
            if g.palette then Config.videoPixel (Config.palette g.depth p) else Config.videoPixel p.toNat), .endOfLine])]
        bSlot := none, bPhase := .getSlot }

/-! ### Reset and invariants of every step -/

/-- Reset meets the invariants (R189, R192, R193), for all parameters that meet the preconditions. -/
def Obligations.ResetMeetsTheInvariants : Prop :=
  ∀ p : Params, paramsOk p →
    linkOk (State.resetWith p) ∧ queueBounded (State.resetWith p) ∧ planesDistinct (State.resetWith p) ∧
    locksFree (State.resetWith p) ∧ memoryOk (State.resetWith p) ∧ modeLegal (State.resetWith p) ∧
    noExtMemRange (State.resetWith p) ∧ messageOnlyInDrain (State.resetWith p)

/-- R189, R192: the values reset leaves, under every choice of the parameters. -/
def Obligations.ResetValues : Prop :=
  ∀ p : Params,
    let s := State.resetWith p
    s.rx = [] ∧ s.tx = [] ∧ s.log = [] ∧ s.video = [] ∧ s.q = [] ∧ s.frPhase = .init ∧ s.frArmed = none ∧
    s.frFilled = 0 ∧ s.crcAcc = 0x0000#16 ∧ s.frSlot = none ∧ s.prims = [] ∧ s.clearColor = 0#16 ∧
    s.readId = .zero ∧ s.writeId = .one ∧ s.bus = .free ∧ s.lock = .free ∧ s.tickReq = false ∧ s.tickDone = false ∧
    s.aPhase = .idle ∧ s.bPhase = .getSlot ∧ s.bSlot = none ∧ s.dispNext = ⟨0, 0⟩ ∧ s.fault = none ∧
    s.refused = none ∧
    s.mode = (match p.initialMode with
      | .text w h font => .text w h font
      | .graphic2D g => .graphic2D g
      | .graphic3D g _ => .graphic3D g { proj := Mat4.identity, mesh := [], meshState := .idle, angle := 0#32 }) ∧
    (p.wire.ids.legal = true →
      (∀ k, handlerOf s (p.wire.ids.idOf k) = some k) ∧ handlerOf s p.wire.ids.infoResponse = none ∧
      ∀ id, p.wire.ids.lacks id = true → handlerOf s id = none)

/-- R94, R24, R23, R106: every step keeps the framer in its phase, with exactly the block armed that the phase awaits, and
every committed message whole; and keeps A, outside a drain, without a popped message (log 8). -/
def Obligations.StepKeepsTheLink : Prop :=
  ∀ s t : State, step s = .next t → (linkOk s → linkOk t) ∧ (messageOnlyInDrain s → messageOnlyInDrain t)

/-- R24, R30, R155: every step keeps the queue and the in-flight slot within 32, and the two buffer ids distinct. -/
def Obligations.StepKeepsTheQueueBoundAndThePlanes : Prop :=
  ∀ s t : State, step s = .next t →
    (queueBounded s → queueBounded t) ∧ (planesDistinct s → planesDistinct t)

/-- R51, R52, R47: after every step that leaves the block running, the lock and the bus are free. That a whole pass and every
locked operation is one step, so that no step ends inside one, is the model's choice among the spec's (logs 10 and 11). -/
def Obligations.StepLeavesTheLocksFree : Prop := ∀ s t : State, locksFree s → step s = .next t → locksFree t

/-- R31, R45, R41: every step keeps memory in canonical form and inside its size. -/
def Obligations.StepKeepsTheMemory : Prop := ∀ s t : State, memoryOk s → step s = .next t → memoryOk t

/-- R112, R48: every step keeps the mode legal; and in a legal mode no step ever reaches past the external memory. -/
def Obligations.LegalModesNeverLeaveTheMemory : Prop :=
  ∀ s t : State, modeLegal s → noExtMemRange s → step s = .next t → modeLegal t ∧ noExtMemRange t

/-! ### Rules of the whole machine -/

/-- R192, R105, R156: only `register` writes the handler table, which no step runs; only `swap` and SWAP_BUFFER, run
directly or dispatched, write the buffer ids; nothing writes the parameters. -/
def Obligations.IdsAndHandlersHaveTheirOwnWriters : Prop :=
  (∀ s t : State, step s = .next t → t.handlers = s.handlers ∧ t.params = s.params) ∧
  ∀ (i : Instr) (s t : State), exec i s = .next t →
    t.params = s.params ∧ (t.handlers = s.handlers ∨ ∃ id k, i = .register id k) ∧
    ((t.readId = s.readId ∧ t.writeId = s.writeId) ∨
      ((i = .swap ∨ i = .swapBuffer ∨ i = .dispatch) ∧ t.readId = s.writeId ∧ t.writeId = s.readId))

/-- R170: which instruction can raise which fault. -/
def Obligations.FaultsAreRaisedWhereTheSpecSays : Prop :=
  ∀ (i : Instr) (s t : State) (f : FaultInfo), exec i s = .next t → s.fault = none → t.fault = some f →
    (f.code = 1 → i = .render) ∧ (f.code = 2 → i = .render) ∧
    (f.code = 3 → i = .render ∨ i = .scanlineRead ∨ (∃ y d, i = .writeLine y d) ∨ ∃ y n, i = .readLine y n) ∧
    (f.code = 4 → i = .render ∨ i = .flatten)

/-- The frame of the wire commands, run directly or dispatched (R107 to R123: State written): every byte of memory, the
receive side, the queue, the contexts' phases, the video and the marks are left alone. -/
def Obligations.WireCommandsFrame : Prop :=
  ∀ (i : Instr) (s t : State), exec i s = .next t →
    ((encodeMessage s.params.wire i).isSome = true →
      t = { s with
        log := t.log, tx := t.tx, mode := t.mode, prims := t.prims, clearColor := t.clearColor
        readId := t.readId, writeId := t.writeId }) ∧
    (i = .dispatch →
      t = { s with
        aMsg := t.aMsg, draws := t.draws, log := t.log, tx := t.tx, mode := t.mode, prims := t.prims
        clearColor := t.clearColor, readId := t.readId, writeId := t.writeId }) ∧
    ((encodeMessage s.params.wire i).isSome = true ∨ i = .dispatch → ∀ a, extByte t a = extByte s a)

/-- The frame of the link's and the queue's operations (R78 to R101: State written); the framer sends nothing and
dispatches nothing (R97). The model's choice where the spec is silent (log 34): length 0 is armed like any other, and a byte
with no place in the armed buffer, past its end or with no slot in flight, is taken, counted and added to the CRC, and
nothing else changes. -/
def Obligations.LinkOperationsFrame : Prop :=
  ∀ s : State,
    (∀ (i : Instr) (t : State), exec i s = .next t →
      (i = .deliver ∨ i = .transferComplete ∨ i = .store →
        t = { s with
          rx := t.rx, frPhase := t.frPhase, frArmed := t.frArmed, frFilled := t.frFilled, frTok := t.frTok
          frCrc0 := t.frCrc0, frCrc1 := t.frCrc1, crcAcc := t.crcAcc, frExpected := t.frExpected, frSlot := t.frSlot
          q := t.q, draws := t.draws }) ∧
      (i = .deliver → t.q = s.q ∧ t.frPhase = s.frPhase) ∧ (i = .transferComplete → t.rx = s.rx ∧ t.frTok = s.frTok)) ∧
    (∀ target, exec (.arm target 0) s = .next { s with frArmed := some (target, 0), frFilled := 0 }) ∧
    ∀ (target : Target) (n : Nat) (b : Byte) (rx : List Byte),
      s.rx = b :: rx → s.frArmed = some (target, n) → s.frFilled < n →
      ((target = .crc ∧ 2 ≤ s.frFilled) ∨ ((target = .hdr ∨ target = .pay) ∧ s.frSlot = none) ∨
        (target = .pay ∧ ∃ f, s.frSlot = some f ∧ f.payload.length ≤ s.frFilled)) →
      exec .deliver s = .next { s with
        rx := rx, frFilled := s.frFilled + 1
        crcAcc := crcStep s.params.wire.crcReflected s.crcAcc b }

/-- The frame of context B's operations (R158, R161, R165: State written): no byte of memory, no packet, no mode, no
primitive changes. -/
def Obligations.ScanlineOperationsFrame : Prop :=
  ∀ (i : Instr) (s t : State), i = .getSlot ∨ i = .scanlineRead ∨ i = .submit → exec i s = .next t →
    t = { s with
      dispNext := t.dispNext, bSlot := t.bSlot, tickReq := t.tickReq, bPhase := t.bPhase, bPixels := t.bPixels
      bPalette := t.bPalette, lock := t.lock, bus := t.bus, video := t.video, fault := t.fault, refused := t.refused
      draws := t.draws } ∧
    ∀ a, extByte t a = extByte s a

/-! ### The vertex transform -/

/-- R139 to R145: a vertex is rotated, moved away from the camera, projected, divided by `cw` unless `|cw|` is below `EPS`,
mapped to the screen and truncated, all in binary32 and in the order the rules write; a coordinate that is no number of
magnitude below 2^31 maps to no pixel. The example of R145 and R144: that matrix, and the vertex (1, 1, 0) at pixel
(12, 4). -/
def Obligations.VertexMapsToItsPixel : Prop :=
  (∀ (p : Params) (g : Screen) (m : Scene) (v : Vertex3),
    let turned := fun r : Vec3 => f32Add (f32Add (f32Mul r.x v.x) (f32Mul r.y v.y)) (f32Mul r.z v.z)
    let x := turned (rotation m.angle).r0
    let y := turned (rotation m.angle).r1
    let z := f32Sub (turned (rotation m.angle).r2) p.tz
    let clip := fun r : Vec4 =>
      f32Add (f32Add (f32Add (f32Mul r.x x) (f32Mul r.y y)) (f32Mul r.z z)) (f32Mul r.w 0x3F800000#32)
    let divided := fun c : F32 =>
      if f32Lt (f32Abs (clip m.proj.r3)) p.eps = true then c else f32Div c (clip m.proj.r3)
    let px := f32Mul (f32Add (divided (clip m.proj.r0)) 0x3F800000#32) (f32Div (f32OfInt g.width.toNat) 0x40000000#32)
    let py := f32Mul (f32Sub 0x3F800000#32 (divided (clip m.proj.r1))) (f32Div (f32OfInt g.height.toNat) 0x40000000#32)
    (f32Finite px = true → f32Finite py = true → (f32Val px).natAbs < 2 ^ 180 → (f32Val py).natAbs < 2 ^ 180 →
      toPixel? p g m v = some ⟨f32Trunc px, f32Trunc py⟩) ∧
    (f32Finite px = false ∨ f32Finite py = false ∨ 2 ^ 180 ≤ (f32Val px).natAbs ∨ 2 ^ 180 ≤ (f32Val py).natAbs →
      toPixel? p g m v = none)) ∧
  ∀ (p : Params) (g : Screen) (m : Scene) (color : Pixel),
    p.tz = 0x40000000#32 → f32Lt p.eps 0x3F800000#32 = true → g.width = 16#16 → g.height = 16#16 → m.angle = 0#32 →
    m.proj = perspective 0x3FC90FDB#32 0x3F800000#32 0x3F800000#32 0x40400000#32 →
    m.proj = { r0 := ⟨0x3F800000#32, 0#32, 0#32, 0#32⟩, r1 := ⟨0#32, 0x3F800000#32, 0#32, 0#32⟩
               r2 := ⟨0#32, 0#32, 0xC0000000#32, 0xC0400000#32⟩, r3 := ⟨0#32, 0#32, 0xBF800000#32, 0#32⟩ } ∧
    toPixel? p g m ⟨0x3F800000#32, 0x3F800000#32, 0#32, color⟩ = some ⟨12, 4⟩

/-- R139, R193: the rotation of angle 0.0 is the identity, and that of any angle is a rotation matrix rounded to binary32:
there are nine integers over one denominator that form an orthogonal matrix of determinant 1, and each entry is the binary32
value nearest to its one, ties to even. That the entries before rounding are rational is the model's choice (log 17). -/
def Obligations.RotationsAreRoundedRotationMatrices : Prop :=
  ∀ angle : F32,
    (f32IsZero angle = true →
      rotation angle = { r0 := ⟨0x3F800000#32, 0#32, 0#32⟩, r1 := ⟨0#32, 0x3F800000#32, 0#32⟩
                         r2 := ⟨0#32, 0#32, 0x3F800000#32⟩ }) ∧
    ∃ (a b c d e f h i j n : Int), 0 < n ∧
      a * a + b * b + c * c = n * n ∧ d * d + e * e + f * f = n * n ∧ h * h + i * i + j * j = n * n ∧
      a * d + b * e + c * f = 0 ∧ a * h + b * i + c * j = 0 ∧ d * h + e * i + f * j = 0 ∧
      a * (e * j - f * i) - b * (d * j - f * h) + c * (d * i - e * h) = n * n * n ∧
      ∀ x m, (x, m) ∈ [((rotation angle).r0.x, a), ((rotation angle).r0.y, b), ((rotation angle).r0.z, c),
          ((rotation angle).r1.x, d), ((rotation angle).r1.y, e), ((rotation angle).r1.z, f),
          ((rotation angle).r2.x, h), ((rotation angle).r2.y, i), ((rotation angle).r2.z, j)] →
        f32Finite x = true ∧ ∀ r : F32, f32Finite r = true →
          (f32Val x * n - m * 2 ^ 149).natAbs ≤ (f32Val r * n - m * 2 ^ 149).natAbs ∧
          ((f32Val x * n - m * 2 ^ 149).natAbs = (f32Val r * n - m * 2 ^ 149).natAbs →
            f32Val r = f32Val x ∨ x.toNat % 2 = 0)
end

