-- ==== Sys2Proof/Laws/Bits.lean ====
section
/-! SUPPORT. Byte order and the bit string of a stored line: lengths, and fields sent and read back. -/

namespace Sys2Proof.Machine

@[simp] theorem bytesOfString_length (n v : Nat) : (bytesOfString n v).length = n := by
  induction n generalizing v with
  | zero => rfl
  | succ n ih => simp [bytesOfString, ih]

@[simp] theorem pixelsOfString_length (d n v : Nat) : (pixelsOfString d n v).length = n := by
  induction n generalizing v with
  | zero => rfl
  | succ n ih => simp [pixelsOfString, ih]

/-- A packed line has as many bytes as its stride (R126). -/
@[simp] theorem pack_length (d : Nat) (lb : List Pixel) : (pack d lb).length = stride lb.length d := by simp [pack]

/-- An unpacked line has the pixels asked for (R162). -/
@[simp] theorem unpack_length (d n : Nat) (bs : List Byte) : (unpack d n bs).length = n := by simp [unpack]

@[simp] theorem le16bytes_length (w : Word16) : (le16bytes w).length = 2 := rfl

@[simp] theorem le32bytes_length (w : BitVec 32) : (le32bytes w).length = 4 := rfl

/-- A 16-bit field sent is the field read (R42). -/
@[simp] theorem le16_le16bytes (w : Word16) : le16 (w.extractLsb' 0 8) (w.extractLsb' 8 8) = w := by
  apply BitVec.eq_of_getLsbD_eq
  intro i h
  simp only [le16, BitVec.getLsbD_append, BitVec.getLsbD_extractLsb']
  by_cases h0 : i < 8
  · simp [h0]
  · simp [h0, show i - 8 < 8 by omega, show 8 + (i - 8) = i by omega]

/-- A 32-bit field sent is the field read (R42). -/
@[simp] theorem le32_le32bytes (w : BitVec 32) :
    le32 (w.extractLsb' 0 8) (w.extractLsb' 8 8) (w.extractLsb' 16 8) (w.extractLsb' 24 8) = w := by
  apply BitVec.eq_of_getLsbD_eq
  intro i h
  simp only [le32, BitVec.getLsbD_append, BitVec.getLsbD_extractLsb']
  by_cases h0 : i < 8
  · simp [h0, show i < 16 by omega, show i < 24 by omega]
  · by_cases h1 : i < 16
    · simp [h0, h1, show i < 24 by omega, show i - 8 < 8 by omega, show 8 + (i - 8) = i by omega]
    · by_cases h2 : i < 24
      · simp [h1, h2, show i - 16 < 8 by omega, show 16 + (i - 16) = i by omega]
      · simp [h2, show i - 24 < 8 by omega, show 24 + (i - 24) = i by omega]

/-- The value of a 16-bit field (R42). -/
theorem le16_toNat (b0 b1 : Byte) : (le16 b0 b1).toNat = b0.toNat + 256 * b1.toNat := by
  have h0 := b0.isLt
  simp only [le16, BitVec.toNat_append]
  rw [← Nat.shiftLeft_add_eq_or_of_lt h0, Nat.shiftLeft_eq]
  omega

end Sys2Proof.Machine
end

