-- ==== Sys2Proof/Laws/Decode.lean ====
section
/-! SUPPORT. The decoder on a packet that is laid out as R59 says, and what a legal id map gives. -/

namespace Sys2Proof

open Sys2Proof.Machine

/-- A packet decodes to the instruction of its id and payload, with the bytes after it left over (R59, R60). -/
theorem decode_packet (w : Wire) (dir : Direction) (stale : Nat → Byte) (id : Byte) (p rest : List Byte)
    (hp : p.length ≤ Config.maxPayload) :
    decode w dir stale (packet w id p ++ rest) = .ok (decodeMessage w dir stale id p, rest) := by
  have hp : p.length ≤ 32 := hp
  have hsz : (BitVec.ofNat 8 p.length).toNat = p.length := by
    rw [BitVec.toNat_ofNat, Nat.mod_eq_of_lt (by omega)]
  have e16 : ∀ c : Word16, le16bytes c = [c.extractLsb' 0 8, c.extractLsb' 8 8] := fun _ => rfl
  cases p with
  | nil => simp [packet, decode, e16, Config.maxPayload, decodeBody]
  | cons b bs =>
    have hne : BitVec.ofNat 8 (b :: bs).length ≠ 0#8 := by
      intro h
      have := congrArg BitVec.toNat h
      rw [hsz] at this
      simp at this
    simp only [packet, e16, List.isEmpty_cons, Bool.false_eq_true, if_false]
    generalize b :: bs = q at *
    simp only [decode, List.cons_append, List.nil_append, List.append_assoc]
    simp only [le16_le16bytes, ne_eq, not_true, if_false, hsz, Config.maxPayload, Nat.not_lt.mpr hp, decodeBody, hne]
    simp

/-- The bytes of a payload that is as long as the struct are the payload's own (R108). -/
theorem commandBytes_full (stale : Nat → Byte) (p : List Byte) : commandBytes stale (p.map some) p.length = p := by
  apply List.ext_getElem
  · simp [commandBytes]
  · intro n h1 h2
    simp [commandBytes, h2]

/-! ### Legal id maps (R62) -/

/-- A legal map gives INFO_RESPONSE's id to no command, no id to two commands, and `0xFF` to none. -/
theorem IdMap.legal_spec {m : IdMap} (h : m.legal = true) :
    (∀ k, m.idOf k ≠ m.infoResponse) ∧ (∀ k j, m.idOf k = m.idOf j → k = j) ∧ (∀ k, m.idOf k ≠ 0xFF#8) := by
  rw [IdMap.legal, Bool.and_eq_true] at h
  have hl : m.toList = CommandKind.all.map m.idOf ++ [m.infoResponse] := rfl
  have h1 : m.toList.Nodup := of_decide_eq_true h.1
  have h2 : 0xFF#8 ∉ m.toList := by simpa using h.2
  have ha : ∀ k, k ∈ CommandKind.all := fun k => by cases k <;> decide
  have hm : ∀ k, m.idOf k ∈ CommandKind.all.map m.idOf := fun k => List.mem_map_of_mem (ha k)
  rw [hl] at h1 h2
  rw [List.nodup_append] at h1
  refine ⟨fun k => h1.2.2 _ (hm k) _ (by simp), fun k j hkj => ?_, fun k hk => ?_⟩
  · exact List.inj_on_of_nodup_map h1.1 (ha k) (ha j) hkj
  · exact h2 (List.mem_append_left _ (hk ▸ hm k))

/-- The command found under a command's id is that command. -/
theorem kindOfId_idOf {m : IdMap} (h : m.legal = true) (k : CommandKind) : kindOfId m (m.idOf k) = some k := by
  have hk : k ∈ CommandKind.all := by cases k <;> decide
  have hn : (CommandKind.all.find? fun j => m.idOf j == m.idOf k) ≠ none := by
    intro hn
    rw [List.find?_eq_none] at hn
    exact hn k hk (by simp)
  obtain ⟨j, hj⟩ := Option.ne_none_iff_exists'.mp hn
  have := List.find?_some hj
  rw [beq_iff_eq] at this
  rw [kindOfId, hj, (IdMap.legal_spec h).2.1 _ _ this]

/-- The id under which a command is found is its own. -/
theorem idOf_of_kindOfId {m : IdMap} {id : Byte} {k : CommandKind} (h : kindOfId m id = some k) : m.idOf k = id := by
  have := List.find?_some h
  rwa [beq_iff_eq] at this

/-- An id the map lacks is no command's (R109). -/
theorem kindOfId_of_lacks {m : IdMap} {id : Byte} (h : m.lacks id = true) :
    kindOfId m id = none ∧ id ≠ m.infoResponse := by
  simp only [IdMap.lacks, Bool.not_eq_true', Bool.or_eq_false_iff, beq_eq_false_iff_ne] at h
  refine ⟨?_, h.2⟩
  rw [kindOfId, List.find?_eq_none]
  intro k _
  cases k <;> simp only [IdMap.idOf, beq_iff_eq] <;> intro hk <;> simp [hk] at h

end Sys2Proof
end

