-- ==== Sys2Proof/Laws/Tables.lean ====
section
/-! SUPPORT. Tables with rising keys: a read after a write, and that a write keeps the canonical form. -/

namespace Sys2Proof.Machine

variable {α : Type}

@[simp] theorem tableGet_nil (k : Nat) : tableGet k ([] : List (Nat × α)) = none := rfl

/-- A key below every key of a table is not listed. -/
theorem tableGet_of_above {k x : Nat} {t : List (Nat × α)} (h : tableAbove k t = true) (hx : x ≤ k) :
    tableGet x t = none := by
  induction t with
  | nil => rfl
  | cons p rest ih =>
    simp only [tableAbove, Bool.and_eq_true, decide_eq_true_eq] at h
    simp only [tableGet]
    rw [if_neg (by omega)]
    exact ih h.2

/-- A read of the written key gives the value written. -/
@[simp] theorem tableGet_put_same (k : Nat) (v : α) (t : List (Nat × α)) : tableGet k (tablePut k v t) = some v := by
  induction t with
  | nil => simp [tablePut, tableGet]
  | cons p rest ih =>
    simp only [tablePut]
    split
    · simp [tableGet]
    · split
      · simp [tableGet]
      · rename_i h1 h2
        simp only [tableGet, if_neg h2, ih]

/-- A write leaves every other key alone. -/
theorem tableGet_put_other {k x : Nat} (v : α) (t : List (Nat × α)) (h : x ≠ k) :
    tableGet x (tablePut k v t) = tableGet x t := by
  induction t with
  | nil => simp [tablePut, tableGet, h]
  | cons p rest ih =>
    simp only [tablePut]
    split
    · simp [tableGet, h]
    · split
      · rename_i h1 h2
        subst h2
        simp [tableGet, h]
      · simp only [tableGet, ih]

theorem tableAbove_put {k k' : Nat} (v : α) {t : List (Nat × α)} (h : tableAbove k t = true) (hk : k < k') :
    tableAbove k (tablePut k' v t) = true := by
  induction t with
  | nil => simp [tablePut, tableAbove, hk]
  | cons p rest ih =>
    simp only [tableAbove, Bool.and_eq_true, decide_eq_true_eq] at h
    simp only [tablePut]
    split
    · simp [tableAbove, hk, h.1, h.2]
    · split
      · simp [tableAbove, hk, h.2]
      · simp [tableAbove, h.1, ih h.2]

theorem tableAbove_of_le {j k : Nat} {t : List (Nat × α)} (h : tableAbove k t = true) (hj : j ≤ k) :
    tableAbove j t = true := by
  induction t with
  | nil => rfl
  | cons p rest ih =>
    simp only [tableAbove, Bool.and_eq_true, decide_eq_true_eq] at h ⊢
    exact ⟨by omega, ih h.2⟩

/-- A write keeps the canonical form. -/
theorem tableRising_put (k : Nat) (v : α) {t : List (Nat × α)} (h : tableRising t = true) :
    tableRising (tablePut k v t) = true := by
  induction t with
  | nil => simp [tablePut, tableRising, tableAbove]
  | cons p rest ih =>
    simp only [tableRising, Bool.and_eq_true] at h
    simp only [tablePut]
    split
    · rename_i h1
      simp only [tableRising, tableAbove, Bool.and_eq_true, decide_eq_true_eq]
      exact ⟨⟨h1, tableAbove_of_le h.1 (by omega)⟩, h.1, h.2⟩
    · split
      · rename_i h1 h2
        subst h2
        simp [tableRising, h.1, h.2]
      · rename_i h1 h2
        simp only [tableRising, Bool.and_eq_true]
        exact ⟨tableAbove_put v h.1 (by omega), ih h.2⟩

/-- The entries after a write are the new one and old ones. -/
theorem mem_tablePut {k : Nat} {v : α} {t : List (Nat × α)} {c : Nat × α} (h : c ∈ tablePut k v t) :
    c = (k, v) ∨ c ∈ t := by
  induction t with
  | nil => simpa [tablePut] using h
  | cons p rest ih =>
    simp only [tablePut] at h
    split at h
    · simpa using h
    · split at h
      · simp only [List.mem_cons] at h ⊢
        exact h.imp id Or.inr
      · simp only [List.mem_cons] at h ⊢
        rcases h with h | h
        · exact .inr (.inl h)
        · exact (ih h).imp id Or.inr

end Sys2Proof.Machine
end

