-- ==== Sys2Proof/Laws/Boot.lean ====
section
/-! SUPPORT. The handler table as boot leaves it (R192). -/

namespace Sys2Proof.Machine

/-- Registering a list of commands one after the other: the last one with a key is what the key is mapped to. -/
theorem tableGet_foldl {α : Type} (f : α → Nat) (ks : List α) (x : Nat) (t : List (Nat × α)) :
    tableGet x (ks.foldl (fun t k => tablePut (f k) k t) t) =
      (ks.reverse.find? fun k => f k == x).or (tableGet x t) := by
  induction ks generalizing t with
  | nil => rfl
  | cons k ks ih =>
    rw [List.foldl_cons, ih, List.reverse_cons, List.find?_append, Option.or_assoc]
    congr 1
    by_cases h : f k = x
    · subst h
      simp
    · rw [tableGet_put_other k t (Ne.symm h)]
      simp [h]

/-- Under a legal map boot registers every command under its id, and nothing else (R192). -/
theorem tableGet_boot {ids : IdMap} (h : ids.legal = true) (id : Byte) :
    tableGet id.toNat (bootHandlers ids) = kindOfId ids id := by
  have key : ∀ k : CommandKind, ((ids.idOf k).toNat == id.toNat) = (ids.idOf k == id) := by
    intro k
    rw [Bool.eq_iff_iff, beq_iff_eq, beq_iff_eq, BitVec.toNat_inj]
  rw [bootHandlers, tableGet_foldl, tableGet_nil, Option.or_none]
  simp only [key]
  cases hk : kindOfId ids id with
  | some k =>
    have hid := idOf_of_kindOfId hk
    subst hid
    have hn : (CommandKind.all.reverse.find? fun j => ids.idOf j == ids.idOf k) ≠ none := by
      intro hn
      rw [List.find?_eq_none] at hn
      exact hn k (by cases k <;> decide) (by simp)
    obtain ⟨j, hj⟩ := Option.ne_none_iff_exists'.mp hn
    have := List.find?_some hj
    rw [beq_iff_eq] at this
    rw [hj, (IdMap.legal_spec h).2.1 _ _ this]
  | none =>
    rw [List.find?_eq_none]
    intro k hk'
    rw [kindOfId, List.find?_eq_none] at hk
    exact hk k (List.mem_reverse.mp hk')

end Sys2Proof.Machine
end

