-- ==== Sys2Proof/Laws/State.lean ====
section
/-! SUPPORT. The named updates of the state, field by field: true by unfolding, tagged for simp, so that later proofs
do not unfold a record update. -/

namespace Sys2Proof.Machine

variable (s : State)

@[simp] theorem State.raise_params (f : FaultInfo) : (s.raise f).params = s.params := rfl
@[simp] theorem State.raise_rx (f : FaultInfo) : (s.raise f).rx = s.rx := rfl
@[simp] theorem State.raise_tx (f : FaultInfo) : (s.raise f).tx = s.tx := rfl
@[simp] theorem State.raise_frPhase (f : FaultInfo) : (s.raise f).frPhase = s.frPhase := rfl
@[simp] theorem State.raise_frArmed (f : FaultInfo) : (s.raise f).frArmed = s.frArmed := rfl
@[simp] theorem State.raise_frFilled (f : FaultInfo) : (s.raise f).frFilled = s.frFilled := rfl
@[simp] theorem State.raise_frTok (f : FaultInfo) : (s.raise f).frTok = s.frTok := rfl
@[simp] theorem State.raise_frCrc0 (f : FaultInfo) : (s.raise f).frCrc0 = s.frCrc0 := rfl
@[simp] theorem State.raise_frCrc1 (f : FaultInfo) : (s.raise f).frCrc1 = s.frCrc1 := rfl
@[simp] theorem State.raise_crcAcc (f : FaultInfo) : (s.raise f).crcAcc = s.crcAcc := rfl
@[simp] theorem State.raise_frExpected (f : FaultInfo) : (s.raise f).frExpected = s.frExpected := rfl
@[simp] theorem State.raise_frSlot (f : FaultInfo) : (s.raise f).frSlot = s.frSlot := rfl
@[simp] theorem State.raise_q (f : FaultInfo) : (s.raise f).q = s.q := rfl
@[simp] theorem State.raise_handlers (f : FaultInfo) : (s.raise f).handlers = s.handlers := rfl
@[simp] theorem State.raise_mode (f : FaultInfo) : (s.raise f).mode = s.mode := rfl
@[simp] theorem State.raise_prims (f : FaultInfo) : (s.raise f).prims = s.prims := rfl
@[simp] theorem State.raise_clearColor (f : FaultInfo) : (s.raise f).clearColor = s.clearColor := rfl
@[simp] theorem State.raise_lb (f : FaultInfo) : (s.raise f).lb = s.lb := rfl
@[simp] theorem State.raise_readId (f : FaultInfo) : (s.raise f).readId = s.readId := rfl
@[simp] theorem State.raise_writeId (f : FaultInfo) : (s.raise f).writeId = s.writeId := rfl
@[simp] theorem State.raise_ext (f : FaultInfo) : (s.raise f).ext = s.ext := rfl
@[simp] theorem State.raise_bus (f : FaultInfo) : (s.raise f).bus = s.bus := rfl
@[simp] theorem State.raise_lock (f : FaultInfo) : (s.raise f).lock = s.lock := rfl
@[simp] theorem State.raise_tickReq (f : FaultInfo) : (s.raise f).tickReq = s.tickReq := rfl
@[simp] theorem State.raise_tickDone (f : FaultInfo) : (s.raise f).tickDone = s.tickDone := rfl
@[simp] theorem State.raise_aPhase (f : FaultInfo) : (s.raise f).aPhase = s.aPhase := rfl
@[simp] theorem State.raise_aMsg (f : FaultInfo) : (s.raise f).aMsg = s.aMsg := rfl
@[simp] theorem State.raise_bPhase (f : FaultInfo) : (s.raise f).bPhase = s.bPhase := rfl
@[simp] theorem State.raise_bSlot (f : FaultInfo) : (s.raise f).bSlot = s.bSlot := rfl
@[simp] theorem State.raise_bPixels (f : FaultInfo) : (s.raise f).bPixels = s.bPixels := rfl
@[simp] theorem State.raise_bPalette (f : FaultInfo) : (s.raise f).bPalette = s.bPalette := rfl
@[simp] theorem State.raise_dispNext (f : FaultInfo) : (s.raise f).dispNext = s.dispNext := rfl
@[simp] theorem State.raise_log (f : FaultInfo) : (s.raise f).log = s.log := rfl
@[simp] theorem State.raise_video (f : FaultInfo) : (s.raise f).video = s.video := rfl
@[simp] theorem State.raise_fault (f : FaultInfo) : (s.raise f).fault = some f := rfl
@[simp] theorem State.raise_refused (f : FaultInfo) : (s.raise f).refused = s.refused := rfl
@[simp] theorem State.raise_ret (f : FaultInfo) : (s.raise f).ret = s.ret := rfl
@[simp] theorem State.raise_draws (f : FaultInfo) : (s.raise f).draws = s.draws := rfl
@[simp] theorem State.raise_sched (f : FaultInfo) : (s.raise f).sched = s.sched := rfl

@[simp] theorem State.refuse_params (r : RefusalName) : (s.refuse r).params = s.params := rfl
@[simp] theorem State.refuse_rx (r : RefusalName) : (s.refuse r).rx = s.rx := rfl
@[simp] theorem State.refuse_tx (r : RefusalName) : (s.refuse r).tx = s.tx := rfl
@[simp] theorem State.refuse_frPhase (r : RefusalName) : (s.refuse r).frPhase = s.frPhase := rfl
@[simp] theorem State.refuse_frArmed (r : RefusalName) : (s.refuse r).frArmed = s.frArmed := rfl
@[simp] theorem State.refuse_frFilled (r : RefusalName) : (s.refuse r).frFilled = s.frFilled := rfl
@[simp] theorem State.refuse_frTok (r : RefusalName) : (s.refuse r).frTok = s.frTok := rfl
@[simp] theorem State.refuse_frCrc0 (r : RefusalName) : (s.refuse r).frCrc0 = s.frCrc0 := rfl
@[simp] theorem State.refuse_frCrc1 (r : RefusalName) : (s.refuse r).frCrc1 = s.frCrc1 := rfl
@[simp] theorem State.refuse_crcAcc (r : RefusalName) : (s.refuse r).crcAcc = s.crcAcc := rfl
@[simp] theorem State.refuse_frExpected (r : RefusalName) : (s.refuse r).frExpected = s.frExpected := rfl
@[simp] theorem State.refuse_frSlot (r : RefusalName) : (s.refuse r).frSlot = s.frSlot := rfl
@[simp] theorem State.refuse_q (r : RefusalName) : (s.refuse r).q = s.q := rfl
@[simp] theorem State.refuse_handlers (r : RefusalName) : (s.refuse r).handlers = s.handlers := rfl
@[simp] theorem State.refuse_mode (r : RefusalName) : (s.refuse r).mode = s.mode := rfl
@[simp] theorem State.refuse_prims (r : RefusalName) : (s.refuse r).prims = s.prims := rfl
@[simp] theorem State.refuse_clearColor (r : RefusalName) : (s.refuse r).clearColor = s.clearColor := rfl
@[simp] theorem State.refuse_lb (r : RefusalName) : (s.refuse r).lb = s.lb := rfl
@[simp] theorem State.refuse_readId (r : RefusalName) : (s.refuse r).readId = s.readId := rfl
@[simp] theorem State.refuse_writeId (r : RefusalName) : (s.refuse r).writeId = s.writeId := rfl
@[simp] theorem State.refuse_ext (r : RefusalName) : (s.refuse r).ext = s.ext := rfl
@[simp] theorem State.refuse_bus (r : RefusalName) : (s.refuse r).bus = s.bus := rfl
@[simp] theorem State.refuse_lock (r : RefusalName) : (s.refuse r).lock = s.lock := rfl
@[simp] theorem State.refuse_tickReq (r : RefusalName) : (s.refuse r).tickReq = s.tickReq := rfl
@[simp] theorem State.refuse_tickDone (r : RefusalName) : (s.refuse r).tickDone = s.tickDone := rfl
@[simp] theorem State.refuse_aPhase (r : RefusalName) : (s.refuse r).aPhase = s.aPhase := rfl
@[simp] theorem State.refuse_aMsg (r : RefusalName) : (s.refuse r).aMsg = s.aMsg := rfl
@[simp] theorem State.refuse_bPhase (r : RefusalName) : (s.refuse r).bPhase = s.bPhase := rfl
@[simp] theorem State.refuse_bSlot (r : RefusalName) : (s.refuse r).bSlot = s.bSlot := rfl
@[simp] theorem State.refuse_bPixels (r : RefusalName) : (s.refuse r).bPixels = s.bPixels := rfl
@[simp] theorem State.refuse_bPalette (r : RefusalName) : (s.refuse r).bPalette = s.bPalette := rfl
@[simp] theorem State.refuse_dispNext (r : RefusalName) : (s.refuse r).dispNext = s.dispNext := rfl
@[simp] theorem State.refuse_log (r : RefusalName) : (s.refuse r).log = s.log := rfl
@[simp] theorem State.refuse_video (r : RefusalName) : (s.refuse r).video = s.video := rfl
@[simp] theorem State.refuse_fault (r : RefusalName) : (s.refuse r).fault = s.fault := rfl
@[simp] theorem State.refuse_refused (r : RefusalName) : (s.refuse r).refused = some r := rfl
@[simp] theorem State.refuse_ret (r : RefusalName) : (s.refuse r).ret = s.ret := rfl
@[simp] theorem State.refuse_draws (r : RefusalName) : (s.refuse r).draws = s.draws := rfl
@[simp] theorem State.refuse_sched (r : RefusalName) : (s.refuse r).sched = s.sched := rfl

@[simp] theorem State.logEvent_params (e : LogEvent) : (s.logEvent e).params = s.params := rfl
@[simp] theorem State.logEvent_rx (e : LogEvent) : (s.logEvent e).rx = s.rx := rfl
@[simp] theorem State.logEvent_tx (e : LogEvent) : (s.logEvent e).tx = s.tx := rfl
@[simp] theorem State.logEvent_frPhase (e : LogEvent) : (s.logEvent e).frPhase = s.frPhase := rfl
@[simp] theorem State.logEvent_frArmed (e : LogEvent) : (s.logEvent e).frArmed = s.frArmed := rfl
@[simp] theorem State.logEvent_frFilled (e : LogEvent) : (s.logEvent e).frFilled = s.frFilled := rfl
@[simp] theorem State.logEvent_frTok (e : LogEvent) : (s.logEvent e).frTok = s.frTok := rfl
@[simp] theorem State.logEvent_frCrc0 (e : LogEvent) : (s.logEvent e).frCrc0 = s.frCrc0 := rfl
@[simp] theorem State.logEvent_frCrc1 (e : LogEvent) : (s.logEvent e).frCrc1 = s.frCrc1 := rfl
@[simp] theorem State.logEvent_crcAcc (e : LogEvent) : (s.logEvent e).crcAcc = s.crcAcc := rfl
@[simp] theorem State.logEvent_frExpected (e : LogEvent) : (s.logEvent e).frExpected = s.frExpected := rfl
@[simp] theorem State.logEvent_frSlot (e : LogEvent) : (s.logEvent e).frSlot = s.frSlot := rfl
@[simp] theorem State.logEvent_q (e : LogEvent) : (s.logEvent e).q = s.q := rfl
@[simp] theorem State.logEvent_handlers (e : LogEvent) : (s.logEvent e).handlers = s.handlers := rfl
@[simp] theorem State.logEvent_mode (e : LogEvent) : (s.logEvent e).mode = s.mode := rfl
@[simp] theorem State.logEvent_prims (e : LogEvent) : (s.logEvent e).prims = s.prims := rfl
@[simp] theorem State.logEvent_clearColor (e : LogEvent) : (s.logEvent e).clearColor = s.clearColor := rfl
@[simp] theorem State.logEvent_lb (e : LogEvent) : (s.logEvent e).lb = s.lb := rfl
@[simp] theorem State.logEvent_readId (e : LogEvent) : (s.logEvent e).readId = s.readId := rfl
@[simp] theorem State.logEvent_writeId (e : LogEvent) : (s.logEvent e).writeId = s.writeId := rfl
@[simp] theorem State.logEvent_ext (e : LogEvent) : (s.logEvent e).ext = s.ext := rfl
@[simp] theorem State.logEvent_bus (e : LogEvent) : (s.logEvent e).bus = s.bus := rfl
@[simp] theorem State.logEvent_lock (e : LogEvent) : (s.logEvent e).lock = s.lock := rfl
@[simp] theorem State.logEvent_tickReq (e : LogEvent) : (s.logEvent e).tickReq = s.tickReq := rfl
@[simp] theorem State.logEvent_tickDone (e : LogEvent) : (s.logEvent e).tickDone = s.tickDone := rfl
@[simp] theorem State.logEvent_aPhase (e : LogEvent) : (s.logEvent e).aPhase = s.aPhase := rfl
@[simp] theorem State.logEvent_aMsg (e : LogEvent) : (s.logEvent e).aMsg = s.aMsg := rfl
@[simp] theorem State.logEvent_bPhase (e : LogEvent) : (s.logEvent e).bPhase = s.bPhase := rfl
@[simp] theorem State.logEvent_bSlot (e : LogEvent) : (s.logEvent e).bSlot = s.bSlot := rfl
@[simp] theorem State.logEvent_bPixels (e : LogEvent) : (s.logEvent e).bPixels = s.bPixels := rfl
@[simp] theorem State.logEvent_bPalette (e : LogEvent) : (s.logEvent e).bPalette = s.bPalette := rfl
@[simp] theorem State.logEvent_dispNext (e : LogEvent) : (s.logEvent e).dispNext = s.dispNext := rfl
@[simp] theorem State.logEvent_log (e : LogEvent) : (s.logEvent e).log = s.log ++ [e] := rfl
@[simp] theorem State.logEvent_video (e : LogEvent) : (s.logEvent e).video = s.video := rfl
@[simp] theorem State.logEvent_fault (e : LogEvent) : (s.logEvent e).fault = s.fault := rfl
@[simp] theorem State.logEvent_refused (e : LogEvent) : (s.logEvent e).refused = s.refused := rfl
@[simp] theorem State.logEvent_ret (e : LogEvent) : (s.logEvent e).ret = s.ret := rfl
@[simp] theorem State.logEvent_draws (e : LogEvent) : (s.logEvent e).draws = s.draws := rfl
@[simp] theorem State.logEvent_sched (e : LogEvent) : (s.logEvent e).sched = s.sched := rfl

@[simp] theorem State.takeBus_params (g : Agent) : (s.takeBus g).params = s.params := rfl
@[simp] theorem State.takeBus_rx (g : Agent) : (s.takeBus g).rx = s.rx := rfl
@[simp] theorem State.takeBus_tx (g : Agent) : (s.takeBus g).tx = s.tx := rfl
@[simp] theorem State.takeBus_frPhase (g : Agent) : (s.takeBus g).frPhase = s.frPhase := rfl
@[simp] theorem State.takeBus_frArmed (g : Agent) : (s.takeBus g).frArmed = s.frArmed := rfl
@[simp] theorem State.takeBus_frFilled (g : Agent) : (s.takeBus g).frFilled = s.frFilled := rfl
@[simp] theorem State.takeBus_frTok (g : Agent) : (s.takeBus g).frTok = s.frTok := rfl
@[simp] theorem State.takeBus_frCrc0 (g : Agent) : (s.takeBus g).frCrc0 = s.frCrc0 := rfl
@[simp] theorem State.takeBus_frCrc1 (g : Agent) : (s.takeBus g).frCrc1 = s.frCrc1 := rfl
@[simp] theorem State.takeBus_crcAcc (g : Agent) : (s.takeBus g).crcAcc = s.crcAcc := rfl
@[simp] theorem State.takeBus_frExpected (g : Agent) : (s.takeBus g).frExpected = s.frExpected := rfl
@[simp] theorem State.takeBus_frSlot (g : Agent) : (s.takeBus g).frSlot = s.frSlot := rfl
@[simp] theorem State.takeBus_q (g : Agent) : (s.takeBus g).q = s.q := rfl
@[simp] theorem State.takeBus_handlers (g : Agent) : (s.takeBus g).handlers = s.handlers := rfl
@[simp] theorem State.takeBus_mode (g : Agent) : (s.takeBus g).mode = s.mode := rfl
@[simp] theorem State.takeBus_prims (g : Agent) : (s.takeBus g).prims = s.prims := rfl
@[simp] theorem State.takeBus_clearColor (g : Agent) : (s.takeBus g).clearColor = s.clearColor := rfl
@[simp] theorem State.takeBus_lb (g : Agent) : (s.takeBus g).lb = s.lb := rfl
@[simp] theorem State.takeBus_readId (g : Agent) : (s.takeBus g).readId = s.readId := rfl
@[simp] theorem State.takeBus_writeId (g : Agent) : (s.takeBus g).writeId = s.writeId := rfl
@[simp] theorem State.takeBus_ext (g : Agent) : (s.takeBus g).ext = s.ext := rfl
@[simp] theorem State.takeBus_bus (g : Agent) : (s.takeBus g).bus = .held g := rfl
@[simp] theorem State.takeBus_lock (g : Agent) : (s.takeBus g).lock = s.lock := rfl
@[simp] theorem State.takeBus_tickReq (g : Agent) : (s.takeBus g).tickReq = s.tickReq := rfl
@[simp] theorem State.takeBus_tickDone (g : Agent) : (s.takeBus g).tickDone = s.tickDone := rfl
@[simp] theorem State.takeBus_aPhase (g : Agent) : (s.takeBus g).aPhase = s.aPhase := rfl
@[simp] theorem State.takeBus_aMsg (g : Agent) : (s.takeBus g).aMsg = s.aMsg := rfl
@[simp] theorem State.takeBus_bPhase (g : Agent) : (s.takeBus g).bPhase = s.bPhase := rfl
@[simp] theorem State.takeBus_bSlot (g : Agent) : (s.takeBus g).bSlot = s.bSlot := rfl
@[simp] theorem State.takeBus_bPixels (g : Agent) : (s.takeBus g).bPixels = s.bPixels := rfl
@[simp] theorem State.takeBus_bPalette (g : Agent) : (s.takeBus g).bPalette = s.bPalette := rfl
@[simp] theorem State.takeBus_dispNext (g : Agent) : (s.takeBus g).dispNext = s.dispNext := rfl
@[simp] theorem State.takeBus_log (g : Agent) : (s.takeBus g).log = s.log := rfl
@[simp] theorem State.takeBus_video (g : Agent) : (s.takeBus g).video = s.video := rfl
@[simp] theorem State.takeBus_fault (g : Agent) : (s.takeBus g).fault = s.fault := rfl
@[simp] theorem State.takeBus_refused (g : Agent) : (s.takeBus g).refused = s.refused := rfl
@[simp] theorem State.takeBus_ret (g : Agent) : (s.takeBus g).ret = s.ret := rfl
@[simp] theorem State.takeBus_draws (g : Agent) : (s.takeBus g).draws = s.draws := rfl
@[simp] theorem State.takeBus_sched (g : Agent) : (s.takeBus g).sched = s.sched := rfl

@[simp] theorem State.freeBus_params : s.freeBus.params = s.params := rfl
@[simp] theorem State.freeBus_rx : s.freeBus.rx = s.rx := rfl
@[simp] theorem State.freeBus_tx : s.freeBus.tx = s.tx := rfl
@[simp] theorem State.freeBus_frPhase : s.freeBus.frPhase = s.frPhase := rfl
@[simp] theorem State.freeBus_frArmed : s.freeBus.frArmed = s.frArmed := rfl
@[simp] theorem State.freeBus_frFilled : s.freeBus.frFilled = s.frFilled := rfl
@[simp] theorem State.freeBus_frTok : s.freeBus.frTok = s.frTok := rfl
@[simp] theorem State.freeBus_frCrc0 : s.freeBus.frCrc0 = s.frCrc0 := rfl
@[simp] theorem State.freeBus_frCrc1 : s.freeBus.frCrc1 = s.frCrc1 := rfl
@[simp] theorem State.freeBus_crcAcc : s.freeBus.crcAcc = s.crcAcc := rfl
@[simp] theorem State.freeBus_frExpected : s.freeBus.frExpected = s.frExpected := rfl
@[simp] theorem State.freeBus_frSlot : s.freeBus.frSlot = s.frSlot := rfl
@[simp] theorem State.freeBus_q : s.freeBus.q = s.q := rfl
@[simp] theorem State.freeBus_handlers : s.freeBus.handlers = s.handlers := rfl
@[simp] theorem State.freeBus_mode : s.freeBus.mode = s.mode := rfl
@[simp] theorem State.freeBus_prims : s.freeBus.prims = s.prims := rfl
@[simp] theorem State.freeBus_clearColor : s.freeBus.clearColor = s.clearColor := rfl
@[simp] theorem State.freeBus_lb : s.freeBus.lb = s.lb := rfl
@[simp] theorem State.freeBus_readId : s.freeBus.readId = s.readId := rfl
@[simp] theorem State.freeBus_writeId : s.freeBus.writeId = s.writeId := rfl
@[simp] theorem State.freeBus_ext : s.freeBus.ext = s.ext := rfl
@[simp] theorem State.freeBus_bus : s.freeBus.bus = .free := rfl
@[simp] theorem State.freeBus_lock : s.freeBus.lock = s.lock := rfl
@[simp] theorem State.freeBus_tickReq : s.freeBus.tickReq = s.tickReq := rfl
@[simp] theorem State.freeBus_tickDone : s.freeBus.tickDone = s.tickDone := rfl
@[simp] theorem State.freeBus_aPhase : s.freeBus.aPhase = s.aPhase := rfl
@[simp] theorem State.freeBus_aMsg : s.freeBus.aMsg = s.aMsg := rfl
@[simp] theorem State.freeBus_bPhase : s.freeBus.bPhase = s.bPhase := rfl
@[simp] theorem State.freeBus_bSlot : s.freeBus.bSlot = s.bSlot := rfl
@[simp] theorem State.freeBus_bPixels : s.freeBus.bPixels = s.bPixels := rfl
@[simp] theorem State.freeBus_bPalette : s.freeBus.bPalette = s.bPalette := rfl
@[simp] theorem State.freeBus_dispNext : s.freeBus.dispNext = s.dispNext := rfl
@[simp] theorem State.freeBus_log : s.freeBus.log = s.log := rfl
@[simp] theorem State.freeBus_video : s.freeBus.video = s.video := rfl
@[simp] theorem State.freeBus_fault : s.freeBus.fault = s.fault := rfl
@[simp] theorem State.freeBus_refused : s.freeBus.refused = s.refused := rfl
@[simp] theorem State.freeBus_ret : s.freeBus.ret = s.ret := rfl
@[simp] theorem State.freeBus_draws : s.freeBus.draws = s.draws := rfl
@[simp] theorem State.freeBus_sched : s.freeBus.sched = s.sched := rfl

@[simp] theorem State.arm_params (t : Target) (n : Nat) : (s.arm t n).params = s.params := rfl
@[simp] theorem State.arm_rx (t : Target) (n : Nat) : (s.arm t n).rx = s.rx := rfl
@[simp] theorem State.arm_tx (t : Target) (n : Nat) : (s.arm t n).tx = s.tx := rfl
@[simp] theorem State.arm_frPhase (t : Target) (n : Nat) : (s.arm t n).frPhase = s.frPhase := rfl
@[simp] theorem State.arm_frArmed (t : Target) (n : Nat) : (s.arm t n).frArmed = some (t, n) := rfl
@[simp] theorem State.arm_frFilled (t : Target) (n : Nat) : (s.arm t n).frFilled = 0 := rfl
@[simp] theorem State.arm_frTok (t : Target) (n : Nat) : (s.arm t n).frTok = s.frTok := rfl
@[simp] theorem State.arm_frCrc0 (t : Target) (n : Nat) : (s.arm t n).frCrc0 = s.frCrc0 := rfl
@[simp] theorem State.arm_frCrc1 (t : Target) (n : Nat) : (s.arm t n).frCrc1 = s.frCrc1 := rfl
@[simp] theorem State.arm_crcAcc (t : Target) (n : Nat) : (s.arm t n).crcAcc = s.crcAcc := rfl
@[simp] theorem State.arm_frExpected (t : Target) (n : Nat) : (s.arm t n).frExpected = s.frExpected := rfl
@[simp] theorem State.arm_frSlot (t : Target) (n : Nat) : (s.arm t n).frSlot = s.frSlot := rfl
@[simp] theorem State.arm_q (t : Target) (n : Nat) : (s.arm t n).q = s.q := rfl
@[simp] theorem State.arm_handlers (t : Target) (n : Nat) : (s.arm t n).handlers = s.handlers := rfl
@[simp] theorem State.arm_mode (t : Target) (n : Nat) : (s.arm t n).mode = s.mode := rfl
@[simp] theorem State.arm_prims (t : Target) (n : Nat) : (s.arm t n).prims = s.prims := rfl
@[simp] theorem State.arm_clearColor (t : Target) (n : Nat) : (s.arm t n).clearColor = s.clearColor := rfl
@[simp] theorem State.arm_lb (t : Target) (n : Nat) : (s.arm t n).lb = s.lb := rfl
@[simp] theorem State.arm_readId (t : Target) (n : Nat) : (s.arm t n).readId = s.readId := rfl
@[simp] theorem State.arm_writeId (t : Target) (n : Nat) : (s.arm t n).writeId = s.writeId := rfl
@[simp] theorem State.arm_ext (t : Target) (n : Nat) : (s.arm t n).ext = s.ext := rfl
@[simp] theorem State.arm_bus (t : Target) (n : Nat) : (s.arm t n).bus = s.bus := rfl
@[simp] theorem State.arm_lock (t : Target) (n : Nat) : (s.arm t n).lock = s.lock := rfl
@[simp] theorem State.arm_tickReq (t : Target) (n : Nat) : (s.arm t n).tickReq = s.tickReq := rfl
@[simp] theorem State.arm_tickDone (t : Target) (n : Nat) : (s.arm t n).tickDone = s.tickDone := rfl
@[simp] theorem State.arm_aPhase (t : Target) (n : Nat) : (s.arm t n).aPhase = s.aPhase := rfl
@[simp] theorem State.arm_aMsg (t : Target) (n : Nat) : (s.arm t n).aMsg = s.aMsg := rfl
@[simp] theorem State.arm_bPhase (t : Target) (n : Nat) : (s.arm t n).bPhase = s.bPhase := rfl
@[simp] theorem State.arm_bSlot (t : Target) (n : Nat) : (s.arm t n).bSlot = s.bSlot := rfl
@[simp] theorem State.arm_bPixels (t : Target) (n : Nat) : (s.arm t n).bPixels = s.bPixels := rfl
@[simp] theorem State.arm_bPalette (t : Target) (n : Nat) : (s.arm t n).bPalette = s.bPalette := rfl
@[simp] theorem State.arm_dispNext (t : Target) (n : Nat) : (s.arm t n).dispNext = s.dispNext := rfl
@[simp] theorem State.arm_log (t : Target) (n : Nat) : (s.arm t n).log = s.log := rfl
@[simp] theorem State.arm_video (t : Target) (n : Nat) : (s.arm t n).video = s.video := rfl
@[simp] theorem State.arm_fault (t : Target) (n : Nat) : (s.arm t n).fault = s.fault := rfl
@[simp] theorem State.arm_refused (t : Target) (n : Nat) : (s.arm t n).refused = s.refused := rfl
@[simp] theorem State.arm_ret (t : Target) (n : Nat) : (s.arm t n).ret = s.ret := rfl
@[simp] theorem State.arm_draws (t : Target) (n : Nat) : (s.arm t n).draws = s.draws := rfl
@[simp] theorem State.arm_sched (t : Target) (n : Nat) : (s.arm t n).sched = s.sched := rfl

@[simp] theorem State.swapIds_params : s.swapIds.params = s.params := rfl
@[simp] theorem State.swapIds_rx : s.swapIds.rx = s.rx := rfl
@[simp] theorem State.swapIds_tx : s.swapIds.tx = s.tx := rfl
@[simp] theorem State.swapIds_frPhase : s.swapIds.frPhase = s.frPhase := rfl
@[simp] theorem State.swapIds_frArmed : s.swapIds.frArmed = s.frArmed := rfl
@[simp] theorem State.swapIds_frFilled : s.swapIds.frFilled = s.frFilled := rfl
@[simp] theorem State.swapIds_frTok : s.swapIds.frTok = s.frTok := rfl
@[simp] theorem State.swapIds_frCrc0 : s.swapIds.frCrc0 = s.frCrc0 := rfl
@[simp] theorem State.swapIds_frCrc1 : s.swapIds.frCrc1 = s.frCrc1 := rfl
@[simp] theorem State.swapIds_crcAcc : s.swapIds.crcAcc = s.crcAcc := rfl
@[simp] theorem State.swapIds_frExpected : s.swapIds.frExpected = s.frExpected := rfl
@[simp] theorem State.swapIds_frSlot : s.swapIds.frSlot = s.frSlot := rfl
@[simp] theorem State.swapIds_q : s.swapIds.q = s.q := rfl
@[simp] theorem State.swapIds_handlers : s.swapIds.handlers = s.handlers := rfl
@[simp] theorem State.swapIds_mode : s.swapIds.mode = s.mode := rfl
@[simp] theorem State.swapIds_prims : s.swapIds.prims = s.prims := rfl
@[simp] theorem State.swapIds_clearColor : s.swapIds.clearColor = s.clearColor := rfl
@[simp] theorem State.swapIds_lb : s.swapIds.lb = s.lb := rfl
@[simp] theorem State.swapIds_readId : s.swapIds.readId = s.writeId := rfl
@[simp] theorem State.swapIds_writeId : s.swapIds.writeId = s.readId := rfl
@[simp] theorem State.swapIds_ext : s.swapIds.ext = s.ext := rfl
@[simp] theorem State.swapIds_bus : s.swapIds.bus = s.bus := rfl
@[simp] theorem State.swapIds_lock : s.swapIds.lock = s.lock := rfl
@[simp] theorem State.swapIds_tickReq : s.swapIds.tickReq = s.tickReq := rfl
@[simp] theorem State.swapIds_tickDone : s.swapIds.tickDone = s.tickDone := rfl
@[simp] theorem State.swapIds_aPhase : s.swapIds.aPhase = s.aPhase := rfl
@[simp] theorem State.swapIds_aMsg : s.swapIds.aMsg = s.aMsg := rfl
@[simp] theorem State.swapIds_bPhase : s.swapIds.bPhase = s.bPhase := rfl
@[simp] theorem State.swapIds_bSlot : s.swapIds.bSlot = s.bSlot := rfl
@[simp] theorem State.swapIds_bPixels : s.swapIds.bPixels = s.bPixels := rfl
@[simp] theorem State.swapIds_bPalette : s.swapIds.bPalette = s.bPalette := rfl
@[simp] theorem State.swapIds_dispNext : s.swapIds.dispNext = s.dispNext := rfl
@[simp] theorem State.swapIds_log : s.swapIds.log = s.log := rfl
@[simp] theorem State.swapIds_video : s.swapIds.video = s.video := rfl
@[simp] theorem State.swapIds_fault : s.swapIds.fault = s.fault := rfl
@[simp] theorem State.swapIds_refused : s.swapIds.refused = s.refused := rfl
@[simp] theorem State.swapIds_ret : s.swapIds.ret = s.ret := rfl
@[simp] theorem State.swapIds_draws : s.swapIds.draws = s.draws := rfl
@[simp] theorem State.swapIds_sched : s.swapIds.sched = s.sched := rfl

@[simp] theorem State.withExt_params (m : List Host.Cell) : (s.withExt m).params = s.params := rfl
@[simp] theorem State.withExt_rx (m : List Host.Cell) : (s.withExt m).rx = s.rx := rfl
@[simp] theorem State.withExt_tx (m : List Host.Cell) : (s.withExt m).tx = s.tx := rfl
@[simp] theorem State.withExt_frPhase (m : List Host.Cell) : (s.withExt m).frPhase = s.frPhase := rfl
@[simp] theorem State.withExt_frArmed (m : List Host.Cell) : (s.withExt m).frArmed = s.frArmed := rfl
@[simp] theorem State.withExt_frFilled (m : List Host.Cell) : (s.withExt m).frFilled = s.frFilled := rfl
@[simp] theorem State.withExt_frTok (m : List Host.Cell) : (s.withExt m).frTok = s.frTok := rfl
@[simp] theorem State.withExt_frCrc0 (m : List Host.Cell) : (s.withExt m).frCrc0 = s.frCrc0 := rfl
@[simp] theorem State.withExt_frCrc1 (m : List Host.Cell) : (s.withExt m).frCrc1 = s.frCrc1 := rfl
@[simp] theorem State.withExt_crcAcc (m : List Host.Cell) : (s.withExt m).crcAcc = s.crcAcc := rfl
@[simp] theorem State.withExt_frExpected (m : List Host.Cell) : (s.withExt m).frExpected = s.frExpected := rfl
@[simp] theorem State.withExt_frSlot (m : List Host.Cell) : (s.withExt m).frSlot = s.frSlot := rfl
@[simp] theorem State.withExt_q (m : List Host.Cell) : (s.withExt m).q = s.q := rfl
@[simp] theorem State.withExt_handlers (m : List Host.Cell) : (s.withExt m).handlers = s.handlers := rfl
@[simp] theorem State.withExt_mode (m : List Host.Cell) : (s.withExt m).mode = s.mode := rfl
@[simp] theorem State.withExt_prims (m : List Host.Cell) : (s.withExt m).prims = s.prims := rfl
@[simp] theorem State.withExt_clearColor (m : List Host.Cell) : (s.withExt m).clearColor = s.clearColor := rfl
@[simp] theorem State.withExt_lb (m : List Host.Cell) : (s.withExt m).lb = s.lb := rfl
@[simp] theorem State.withExt_readId (m : List Host.Cell) : (s.withExt m).readId = s.readId := rfl
@[simp] theorem State.withExt_writeId (m : List Host.Cell) : (s.withExt m).writeId = s.writeId := rfl
@[simp] theorem State.withExt_ext (m : List Host.Cell) : (s.withExt m).ext = m := rfl
@[simp] theorem State.withExt_bus (m : List Host.Cell) : (s.withExt m).bus = s.bus := rfl
@[simp] theorem State.withExt_lock (m : List Host.Cell) : (s.withExt m).lock = s.lock := rfl
@[simp] theorem State.withExt_tickReq (m : List Host.Cell) : (s.withExt m).tickReq = s.tickReq := rfl
@[simp] theorem State.withExt_tickDone (m : List Host.Cell) : (s.withExt m).tickDone = s.tickDone := rfl
@[simp] theorem State.withExt_aPhase (m : List Host.Cell) : (s.withExt m).aPhase = s.aPhase := rfl
@[simp] theorem State.withExt_aMsg (m : List Host.Cell) : (s.withExt m).aMsg = s.aMsg := rfl
@[simp] theorem State.withExt_bPhase (m : List Host.Cell) : (s.withExt m).bPhase = s.bPhase := rfl
@[simp] theorem State.withExt_bSlot (m : List Host.Cell) : (s.withExt m).bSlot = s.bSlot := rfl
@[simp] theorem State.withExt_bPixels (m : List Host.Cell) : (s.withExt m).bPixels = s.bPixels := rfl
@[simp] theorem State.withExt_bPalette (m : List Host.Cell) : (s.withExt m).bPalette = s.bPalette := rfl
@[simp] theorem State.withExt_dispNext (m : List Host.Cell) : (s.withExt m).dispNext = s.dispNext := rfl
@[simp] theorem State.withExt_log (m : List Host.Cell) : (s.withExt m).log = s.log := rfl
@[simp] theorem State.withExt_video (m : List Host.Cell) : (s.withExt m).video = s.video := rfl
@[simp] theorem State.withExt_fault (m : List Host.Cell) : (s.withExt m).fault = s.fault := rfl
@[simp] theorem State.withExt_refused (m : List Host.Cell) : (s.withExt m).refused = s.refused := rfl
@[simp] theorem State.withExt_ret (m : List Host.Cell) : (s.withExt m).ret = s.ret := rfl
@[simp] theorem State.withExt_draws (m : List Host.Cell) : (s.withExt m).draws = s.draws := rfl
@[simp] theorem State.withExt_sched (m : List Host.Cell) : (s.withExt m).sched = s.sched := rfl

/-! A field set twice, or set to what it holds. -/

@[simp] theorem State.withExt_withExt (m m' : List Host.Cell) : (s.withExt m).withExt m' = s.withExt m' := rfl
@[simp] theorem State.withExt_self : s.withExt s.ext = s := rfl

end Sys2Proof.Machine
end

