-- ==== Sys2Proof/Laws/Ops.lean ====
section
/-! SUPPORT. What the shared operations of Machine/Ops.lean can do, each said once: the lock, waiting, a stopped flow, the
schedule, the byte channel and the message slots. -/

namespace Sys2Proof.Machine

/-! ### The end of a step -/

@[simp] theorem flowEnd_ok (s : State) : flowEnd (.ok s) = s := rfl
@[simp] theorem flowEnd_error (s : State) : flowEnd (.error s) = s := rfl
@[simp] theorem stepOrWait_some (s t : State) : stepOrWait s (some t) = .next t := rfl
@[simp] theorem stepOrWait_none (s : State) : stepOrWait s none = .next s := rfl

/-- An operation that waits or steps ends in the state it steps to, or in the one it waits in. -/
theorem stepOrWait_next {s t : State} {o : Option State} (h : stepOrWait s o = .next t) : o = some t ∨ (o = none ∧ t = s) := by
  cases o with
  | none => exact .inr ⟨rfl, by simpa using h.symm⟩
  | some u => exact .inl (by simpa using h)

/-! ### The lock -/

/-- A free lock is taken. -/
theorem acquireLock_free {g : Ctx} {s : State} (h : s.lock = .free) :
    acquireLock g s = some { s with lock := .held g } := by simp [acquireLock, h]

/-- A held lock is not. -/
theorem acquireLock_held {g : Ctx} {s : State} (h : s.lock ≠ .free) : acquireLock g s = none := by
  simp [acquireLock, h]

/-- Taking the lock changes only the lock, which was free. -/
theorem acquireLock_some {g : Ctx} {s t : State} (h : acquireLock g s = some t) :
    s.lock = .free ∧ t = { s with lock := .held g } := by
  simp only [acquireLock] at h
  split at h
  · exact ⟨‹_›, by simpa using h.symm⟩
  · cases h

/-- The holder gives the lock back. -/
theorem releaseLock_held {g : Ctx} {s : State} (h : s.lock = .held g) : releaseLock g s = { s with lock := .free } := by
  simp [releaseLock, h]

/-! ### The bus -/

/-- A free bus can be taken. -/
@[simp] theorem busReady_free {g : Agent} {s : State} (h : s.bus = .free) : busReady g s = true := by
  simp [busReady, h]

/-! ### The schedule -/

/-- The head of the schedule acts next, and is used up. -/
theorem takeTurn_cons {s : State} {t : Turn} {rest : List Turn} (h : s.sched = t :: rest) :
    takeTurn s = (t, { s with sched := rest }) := by simp [takeTurn, h]

/-- A turn changes only the schedule and the count of draws. -/
theorem takeTurn_frame (s : State) : ∃ sched draws, (takeTurn s).2 = { s with sched := sched, draws := draws } := by
  simp only [takeTurn]
  split
  · exact ⟨_, s.draws, rfl⟩
  · exact ⟨s.sched, _, rfl⟩

/-! ### The message slots -/

/-- A byte put into its buffer changes only that buffer. -/
theorem putTarget_frame (t : Target) (b : Byte) (s : State) :
    ∃ tok c0 c1 slot, s.putTarget t b = { s with frTok := tok, frCrc0 := c0, frCrc1 := c1, frSlot := slot } := by
  cases t with
  | tok => exact ⟨b, s.frCrc0, s.frCrc1, s.frSlot, rfl⟩
  | crc =>
    simp only [State.putTarget]
    split
    · exact ⟨s.frTok, b, s.frCrc1, s.frSlot, rfl⟩
    · split
      · exact ⟨s.frTok, s.frCrc0, b, s.frSlot, rfl⟩
      · exact ⟨s.frTok, s.frCrc0, s.frCrc1, s.frSlot, rfl⟩
  | hdr => exact ⟨s.frTok, s.frCrc0, s.frCrc1, _, rfl⟩
  | pay => exact ⟨s.frTok, s.frCrc0, s.frCrc1, _, rfl⟩

/-- A byte with no place in the buffer is put nowhere (log 34). -/
theorem putTarget_nowhere {t : Target} {s : State} (b : Byte)
    (h : (t = .crc ∧ 2 ≤ s.frFilled) ∨ ((t = .hdr ∨ t = .pay) ∧ s.frSlot = none) ∨
      (t = .pay ∧ ∃ f, s.frSlot = some f ∧ f.payload.length ≤ s.frFilled)) : s.putTarget t b = s := by
  rcases h with ⟨rfl, h⟩ | ⟨rfl | rfl, h⟩ | ⟨rfl, f, hf, h⟩
  · simp only [State.putTarget]
    rw [if_neg (by omega), if_neg (by omega)]
  · simp only [State.putTarget, h, Option.map_none]
    rw [← h]
  · simp only [State.putTarget, h, Option.map_none]
    rw [← h]
  · simp only [State.putTarget, hf, Option.map_some, InFlight.putByte, List.set_eq_of_length_le h]
    rw [← hf]

/-- A slot whose header has arrived is stored as its message, unless it is a scratch slot (R99). -/
theorem storeSlot_some {s : State} {f : InFlight} {id size : Byte} (h : s.frSlot = some f) (hi : f.id = some id)
    (hz : f.size = some size) :
    s.storeSlot = { s with
      frSlot := none
      q := if f.discard then s.q
           else s.q ++ [{ id := id, size := size, payload := f.payload, received := true }] } := by
  simp only [State.storeSlot, h]
  cases hd : f.discard <;> simp [InFlight.toMessage, hi, hz]

/-- Without a slot nothing is stored. -/
theorem storeSlot_none {s : State} (h : s.frSlot = none) : s.storeSlot = s := by simp [State.storeSlot, h]

/-- Storing changes only the slot, the queue and the count of draws. -/
theorem storeSlot_frame (s : State) : ∃ slot q draws, s.storeSlot = { s with frSlot := slot, q := q, draws := draws } := by
  simp only [State.storeSlot]
  split
  · exact ⟨s.frSlot, s.q, s.draws, rfl⟩
  · split
    · exact ⟨none, s.q, s.draws, rfl⟩
    · exact ⟨none, _, _, rfl⟩

/-- The size byte of a slot whose header has arrived. -/
theorem slotSize_some {s : State} {f : InFlight} {size : Byte} (h : s.frSlot = some f) (hz : f.size = some size) :
    slotSize s = (size, s) := by simp [slotSize, h, hz]

/-- Reading the size byte changes at most the count of draws. -/
theorem slotSize_frame (s : State) : ∃ draws, (slotSize s).2 = { s with draws := draws } := by
  simp only [slotSize]
  split
  · exact ⟨s.draws, rfl⟩
  · exact ⟨_, rfl⟩

/-! ### Tests -/

/-- Both planes of a screen fit (R48, R112). -/
theorem planesFit_iff {p : Params} {g : Screen} :
    planesFit p g = true ↔
      g.height.toNat * g.stride ≤ p.planeOffset ∧ p.planeOffset + g.height.toNat * g.stride ≤ p.extMemSize := by
  simp only [planesFit, Bool.and_eq_true, decide_eq_true_eq]

/-- A depth operand that is legal is the depth's number of bits (R112). -/
theorem Depth.ofNat?_bits {n : Nat} {d : Depth} (h : Depth.ofNat? n = some d) : n = d.bits := by
  unfold Depth.ofNat? at h
  split at h <;> cases h <;> rfl

/-- A running block has neither mark. -/
theorem stopped_eq_false {s : State} (h : stopped s = false) : s.fault = none ∧ s.refused = none := by
  simpa [stopped] using h

end Sys2Proof.Machine
end

