-- ==== Sys2Proof/Laws/Commands.lean ====
section
/-! SUPPORT. The wire commands: a handler run by the dispatcher is the instruction the bytes decode to, and what a command
can change. -/

namespace Sys2Proof.Machine

/-- A handler is its instruction (R107, R108). -/
theorem exec_instrOf (k : CommandKind) (p : List Byte) (s : State) :
    exec (instrOf k p) s = stepOrWait s (runHandler k p s) := by cases k <;> rfl

/-- With the lock free every handler has a step. -/
theorem runHandler_free (k : CommandKind) (p : List Byte) {s : State} (h : s.lock = .free) :
    ∃ t, runHandler k p s = some t := by
  cases k with
  | modeChange =>
    simp only [runHandler, modeChange?]
    split
    · exact ⟨_, rfl⟩
    · rw [acquireLock_free h]
      exact ⟨_, rfl⟩
  | swapBuffer => exact ⟨_, by simp only [runHandler, swapBuffer?, acquireLock_free h]; rfl⟩
  | _ => exact ⟨_, rfl⟩

/-- What MODE_CHANGE can do (R112): log, or, with the lock free, discard the primitives and enter a mode that passed the
test. -/
theorem modeChange_spec {mode depth palette font : Byte} {w h : Word16} {s t : State}
    (ht : modeChange? mode w h depth palette font s = some t) :
    t = s.logEvent .invalidMode ∨
      ∃ m, newMode? s.params mode w h depth palette font = some m ∧ s.lock = .free ∧
        t = { s with prims := [], mode := m } := by
  simp only [modeChange?] at ht
  split at ht
  · exact .inl (Option.some.inj ht).symm
  · rename_i m hm
    split at ht
    · cases ht
    · rename_i u hu
      obtain ⟨hl, rfl⟩ := acquireLock_some hu
      refine .inr ⟨m, hm, hl, ?_⟩
      rw [releaseLock_held rfl] at ht
      rw [← Option.some.inj ht, ← hl]

/-- SWAP_BUFFER with the lock free is the swap (R117). -/
theorem swapBuffer_free {s : State} (h : s.lock = .free) : swapBuffer? s = some s.swapIds := by
  simp only [swapBuffer?, acquireLock_free h, Option.map_some, State.swapIds]
  rw [releaseLock_held rfl, ← h]

/-- SWAP_BUFFER waits for the lock (R51). -/
theorem swapBuffer_held {s : State} (h : s.lock ≠ .free) : swapBuffer? s = none := by
  simp [swapBuffer?, acquireLock_held h]

/-- What a handler can change (R112 to R122: State written). -/
theorem runHandler_frame {k : CommandKind} {p : List Byte} {s t : State} (h : runHandler k p s = some t) :
    ∃ log tx mode prims color r w,
      ((r = s.readId ∧ w = s.writeId) ∨ (k = .swapBuffer ∧ r = s.writeId ∧ w = s.readId)) ∧
      t = { s with log := log, tx := tx, mode := mode, prims := prims, clearColor := color, readId := r, writeId := w } := by
  cases k with
  | modeChange =>
    rcases modeChange_spec h with rfl | ⟨m, _, _, rfl⟩
    · exact ⟨_, _, _, _, _, _, _, .inl ⟨rfl, rfl⟩, rfl⟩
    · exact ⟨_, _, _, _, _, _, _, .inl ⟨rfl, rfl⟩, rfl⟩
  | swapBuffer =>
    by_cases hl : s.lock = .free
    · rw [runHandler, swapBuffer_free hl] at h
      cases h
      exact ⟨_, _, _, _, _, _, _, .inr ⟨rfl, rfl, rfl⟩, rfl⟩
    · rw [runHandler, swapBuffer_held hl] at h
      cases h
  | setPixel =>
    cases h
    simp only [setPixel]
    split <;> exact ⟨_, _, _, _, _, _, _, .inl ⟨rfl, rfl⟩, rfl⟩
  | drawLine =>
    cases h
    simp only [drawLine]
    split <;> exact ⟨_, _, _, _, _, _, _, .inl ⟨rfl, rfl⟩, rfl⟩
  | drawTriangle =>
    cases h
    simp only [drawTriangle]
    split <;> exact ⟨_, _, _, _, _, _, _, .inl ⟨rfl, rfl⟩, rfl⟩
  | clearScreen =>
    cases h
    simp only [clearScreen]
    split <;> exact ⟨_, _, _, _, _, _, _, .inl ⟨rfl, rfl⟩, rfl⟩
  | beginPrimitives =>
    cases h
    simp only [beginPrimitives]
    split <;> exact ⟨_, _, _, _, _, _, _, .inl ⟨rfl, rfl⟩, rfl⟩
  | endPrimitives =>
    cases h
    simp only [endPrimitives]
    split
    · split <;> exact ⟨_, _, _, _, _, _, _, .inl ⟨rfl, rfl⟩, rfl⟩
    · exact ⟨_, _, _, _, _, _, _, .inl ⟨rfl, rfl⟩, rfl⟩
    · exact ⟨_, _, _, _, _, _, _, .inl ⟨rfl, rfl⟩, rfl⟩
  | writeVertex =>
    cases h
    simp only [writeVertex]
    split
    · split <;> exact ⟨_, _, _, _, _, _, _, .inl ⟨rfl, rfl⟩, rfl⟩
    · exact ⟨_, _, _, _, _, _, _, .inl ⟨rfl, rfl⟩, rfl⟩
    · exact ⟨_, _, _, _, _, _, _, .inl ⟨rfl, rfl⟩, rfl⟩
  | setPerspective =>
    cases h
    simp only [setPerspective]
    split <;> exact ⟨_, _, _, _, _, _, _, .inl ⟨rfl, rfl⟩, rfl⟩
  | infoRequest =>
    cases h
    exact ⟨_, _, _, _, _, _, _, .inl ⟨rfl, rfl⟩, rfl⟩

/-- `dispatch` of a message whose id has a handler (R107). -/
theorem dispatch_handler {s : State} {m : Message} {k : CommandKind} (hm : s.aMsg = some m)
    (hk : handlerOf s m.id = some k) :
    dispatch? s = runHandler k (drawnBytes m k.size s) { s with aMsg := none, draws := s.draws + k.size } := by
  have hk' : handlerOf { s with aMsg := none } m.id = some k := hk
  simp only [dispatch?, hm, dispatchMessage?, hk']
  rfl

/-- `dispatch` of a message whose id has none (R109). -/
theorem dispatch_unknown {s : State} {m : Message} (hm : s.aMsg = some m) (hk : handlerOf s m.id = none) :
    dispatch? s = some { s with aMsg := none, log := s.log ++ [.unknownId m.id] } := by
  have hk' : handlerOf { s with aMsg := none } m.id = none := hk
  simp only [dispatch?, hm, dispatchMessage?, hk']
  rfl

/-- What `dispatch` can do (R107, R109): take the message and run its handler or log its id. -/
theorem dispatch_spec {s t : State} (h : dispatch? s = some t) :
    ∃ m, s.aMsg = some m ∧
      ((∃ k, handlerOf s m.id = some k ∧
          runHandler k (drawnBytes m k.size s) { s with aMsg := none, draws := s.draws + k.size } = some t) ∨
        (handlerOf s m.id = none ∧ t = { s with aMsg := none, log := s.log ++ [.unknownId m.id] })) := by
  simp only [dispatch?] at h
  split at h
  · cases h
  · rename_i m hm
    refine ⟨m, hm, ?_⟩
    simp only [dispatchMessage?] at h
    split at h
    · rename_i k hk
      exact .inl ⟨k, hk, h⟩
    · rename_i hk
      exact .inr ⟨hk, (Option.some.inj h).symm⟩

end Sys2Proof.Machine
end

