-- ==== Sys2Proof/Laws/Memory.lean ====
section
/-! SUPPORT. External memory: what a write of several bytes does to every address, that every memory operation keeps the
canonical form, and that reset has it. -/

namespace Sys2Proof.Machine

/-- Reset memory is in canonical form. -/
theorem reset_memory_wf (p : Params) : Memory.wf (State.resetWith p).ext = true := rfl

/-- After a write of bytes from `a` on, an address in their range holds its byte and every other is as before. -/
theorem tableGet_putBytes (bs : List Byte) (a x : Nat) (m : List Host.Cell) :
    tableGet x (putBytes a bs m) = if a ≤ x ∧ x < a + bs.length then bs[x - a]? else tableGet x m := by
  induction bs generalizing a m with
  | nil =>
    simp only [putBytes, List.length_nil]
    rw [if_neg (by omega)]
  | cons b bs ih =>
    simp only [putBytes, ih, List.length_cons]
    by_cases hx : x = a
    · subst hx
      rw [if_neg (by omega), if_pos (by omega)]
      simp
    · by_cases h : a + 1 ≤ x ∧ x < a + 1 + bs.length
      · rw [if_pos h, if_pos (by omega)]
        obtain ⟨d, hd⟩ : ∃ d, x - a = d + 1 := ⟨x - a - 1, by omega⟩
        have : x - (a + 1) = d := by omega
        simp [hd, this]
      · rw [if_neg h, if_neg (by omega), tableGet_put_other b m hx]

/-- A write of bytes keeps the canonical form. -/
theorem putBytes_wf (bs : List Byte) (a : Nat) {m : List Host.Cell} (h : Memory.wf m = true) :
    Memory.wf (putBytes a bs m) = true := by
  induction bs generalizing a m with
  | nil => exact h
  | cons b bs ih => exact ih (a + 1) (tableRising_put a b h)

/-- The addresses a write of bytes lists are its own or were listed before. -/
theorem mem_putBytes {bs : List Byte} {a : Nat} {m : List Host.Cell} {c : Host.Cell} (h : c ∈ putBytes a bs m) :
    (a ≤ c.1 ∧ c.1 < a + bs.length) ∨ c ∈ m := by
  induction bs generalizing a m with
  | nil => exact .inr h
  | cons b bs ih =>
    rcases ih h with h | h
    · exact .inl ⟨by omega, by simp only [List.length_cons]; omega⟩
    · rcases mem_tablePut h with h | h
      · subst h
        exact .inl ⟨Nat.le_refl _, by simp⟩
      · exact .inr h

/-- Two writes one after the other are one write of the joined bytes. -/
theorem putBytes_append (bs cs : List Byte) (a : Nat) (m : List Host.Cell) :
    putBytes a (bs ++ cs) m = putBytes (a + bs.length) cs (putBytes a bs m) := by
  induction bs generalizing a m with
  | nil => simp [putBytes]
  | cons b bs ih =>
    simp only [List.cons_append, putBytes, ih, List.length_cons]
    congr 1
    omega

/-- `MemWrite` inside the memory. -/
theorem memWrite_ok {a : Nat} {v : List Byte} {s : State} (h : a + v.length ≤ s.params.extMemSize) :
    memWrite a v s = .ok (s.withExt (putBytes a v s.ext)) := by
  rw [memWrite, if_neg (by omega)]

/-- `MemWrite` past the end of memory raises and changes nothing else (R45). -/
theorem memWrite_error {a : Nat} {v : List Byte} {s : State} (h : s.params.extMemSize < a + v.length) :
    memWrite a v s = .error (s.raise (.extMemRange a)) := by
  rw [memWrite, if_pos h]

/-- `MemRead` inside the memory. -/
theorem memRead_ok {a n : Nat} {s : State} (h : a + n ≤ s.params.extMemSize) :
    memRead a n s = .ok ((List.range n).map fun i => extByte s (a + i)) := by
  rw [memRead, if_neg (by omega)]

/-- `MemRead` past the end of memory raises and changes nothing else (R45). -/
theorem memRead_error {a n : Nat} {s : State} (h : s.params.extMemSize < a + n) :
    memRead a n s = .error (s.raise (.extMemRange a)) := by
  rw [memRead, if_pos h]

/-- The byte at an address after a write of bytes. -/
theorem extByte_putBytes (s : State) (a : Nat) (bs : List Byte) (x : Nat) :
    extByte (s.withExt (putBytes a bs s.ext)) x =
      if h : a ≤ x ∧ x < a + bs.length then bs[x - a]'(by omega) else extByte s x := by
  simp only [extByte, State.withExt_ext, tableGet_putBytes]
  by_cases h : a ≤ x ∧ x < a + bs.length
  · rw [if_pos h, dif_pos h, List.getElem?_eq_getElem (by omega)]
    rfl
  · rw [if_neg h, dif_neg h]

end Sys2Proof.Machine
end

