-- ==== Sys2Proof/Laws/FrameStore.lean ====
section
/-! SUPPORT. The page split and the line transfers: what a line write and a line read do, said once. -/

namespace Sys2Proof.Machine

/-- A segment is at least one byte, and at most the bytes left. -/
theorem segment_bounds (a : Nat) {n : Nat} (h : n ≠ 0) :
    1 ≤ min n (Config.pageSize - a % Config.pageSize) ∧ min n (Config.pageSize - a % Config.pageSize) ≤ n := by
  have := Nat.mod_lt a (show 0 < Config.pageSize by decide)
  omega

/-- Writing data through the segments of its range is one write of all of it, where the range is inside memory. -/
theorem writeSegments_ok (fuel a : Nat) (data : List Byte) (s : State) (hf : data.length ≤ fuel)
    (h : a + data.length ≤ s.params.extMemSize) :
    writeSegments (segmentsFrom fuel a data.length) data s = .ok (s.withExt (putBytes a data s.ext)) := by
  induction fuel generalizing a data s with
  | zero =>
    have : data = [] := List.eq_nil_of_length_eq_zero (by omega)
    subst this
    rfl
  | succ fuel ih =>
    by_cases h0 : data.length = 0
    · have : data = [] := List.eq_nil_of_length_eq_zero h0
      subst this
      simp [segmentsFrom, writeSegments, putBytes]
    · have hb := segment_bounds a h0
      simp only [segmentsFrom, if_neg h0, writeSegments]
      generalize min data.length (Config.pageSize - a % Config.pageSize) = k at hb
      have hk : (data.take k).length = k := by rw [List.length_take]; omega
      rw [memWrite_ok (by omega)]
      have hd : data.length - k = (data.drop k).length := by rw [List.length_drop]
      rw [hd]
      have := ih (a + k) (data.drop k) (s.withExt (putBytes a (data.take k) s.ext))
        (by rw [List.length_drop]; omega) (by rw [List.length_drop, State.withExt_params]; omega)
      refine this.trans ?_
      have hp := putBytes_append (data.take k) (data.drop k) a s.ext
      rw [List.take_append_drop, hk] at hp
      rw [State.withExt_withExt, State.withExt_ext, ← hp]

/-- Reading through the segments of a range gives its bytes in order, where the range is inside memory. -/
theorem readSegments_ok (fuel a n : Nat) (s : State) (hf : n ≤ fuel) (h : a + n ≤ s.params.extMemSize) :
    readSegments (segmentsFrom fuel a n) s = .ok ((List.range n).map fun i => extByte s (a + i)) := by
  induction fuel generalizing a n with
  | zero =>
    have : n = 0 := by omega
    subst this
    rfl
  | succ fuel ih =>
    by_cases h0 : n = 0
    · subst h0
      simp [segmentsFrom, readSegments]
    · have hb := segment_bounds a h0
      simp only [segmentsFrom, if_neg h0, readSegments]
      generalize min n (Config.pageSize - a % Config.pageSize) = k at hb
      rw [memRead_ok (by omega), ih (a + k) (n - k) (by omega) (by omega)]
      obtain ⟨d, hd⟩ : ∃ d, n = k + d := ⟨n - k, by omega⟩
      subst hd
      have hr : List.range (k + d) = List.range k ++ (List.range d).map (k + ·) := List.range_add
      simp [hr, Nat.add_assoc, Function.comp_def]

/-- A line write inside memory (R152): the line's bytes are written, the bus is free again, nothing else changes. -/
theorem writeLineFlow_ok {g : Screen} {y : Nat} {data : List Byte} {s : State}
    (h : lineAddr s.params g s.writeId y + data.length ≤ s.params.extMemSize) :
    writeLineFlow g y data s =
      .ok (s.withExt (putBytes (lineAddr s.params g s.writeId y) data s.ext)).freeBus := by
  simp only [writeLineFlow, segments]
  rw [writeSegments_ok _ _ _ _ (Nat.le_refl _) (by simpa [State.takeBus] using h)]
  rfl

/-- A line read inside memory (R153): the bytes of the line, and only the bus is written. -/
theorem readLineFlow_ok {g : Screen} {y n : Nat} {s : State}
    (h : lineAddr s.params g s.readId y + n ≤ s.params.extMemSize) :
    readLineFlow g y n s =
      .ok ((List.range n).map fun i => extByte s (lineAddr s.params g s.readId y + i), s.freeBus) := by
  simp only [readLineFlow, segments]
  rw [readSegments_ok _ _ _ _ (Nat.le_refl _) (by simpa [State.takeBus] using h)]
  rfl

/-- Memory `m'` comes from `m` by writes inside `lo .. lo+n-1`, all inside the memory of a state with `size` bytes: every
byte outside is as before, and the canonical form and the bound are kept. -/
def WrittenWithin (size lo n : Nat) (m m' : List Host.Cell) : Prop :=
  (∀ x, x < lo ∨ lo + n ≤ x → tableGet x m' = tableGet x m) ∧
    (Memory.wf m = true → Memory.wf m' = true) ∧
    ((∀ c, c ∈ m → c.1 < size) → ∀ c, c ∈ m' → c.1 < size)

theorem WrittenWithin.refl (size lo n : Nat) (m : List Host.Cell) : WrittenWithin size lo n m m :=
  ⟨fun _ _ => rfl, id, id⟩

/-- Writes one after the other. -/
theorem WrittenWithin.trans {size lo n : Nat} {m m' m'' : List Host.Cell} (h : WrittenWithin size lo n m m')
    (h' : WrittenWithin size lo n m' m'') : WrittenWithin size lo n m m'' :=
  ⟨fun x hx => (h'.1 x hx).trans (h.1 x hx), fun w => h'.2.1 (h.2.1 w), fun b => h'.2.2 (h.2.2 b)⟩

/-- A wider range. -/
theorem WrittenWithin.mono {size lo n lo' n' : Nat} {m m' : List Host.Cell} (h : WrittenWithin size lo n m m')
    (hl : lo' ≤ lo) (hn : lo + n ≤ lo' + n') : WrittenWithin size lo' n' m m' :=
  ⟨fun x hx => h.1 x (by omega), h.2⟩

/-- One write of bytes. -/
theorem putBytes_within {size a : Nat} {bs : List Byte} (m : List Host.Cell) (h : a + bs.length ≤ size) :
    WrittenWithin size a bs.length m (putBytes a bs m) := by
  refine ⟨fun x hx => ?_, putBytes_wf bs a, fun hb c hc => ?_⟩
  · rw [tableGet_putBytes, if_neg (by omega)]
  · rcases mem_putBytes hc with h' | h'
    · omega
    · exact hb c h'

/-- What a transfer of segments can do (R152): memory is written inside the range; if a segment is past the end of memory,
ExtMemRange is raised and the segments before it stay written. -/
theorem writeSegments_spec (fuel a : Nat) (data : List Byte) (s : State) :
    match writeSegments (segmentsFrom fuel a data.length) data s with
    | .ok t => ∃ ext, WrittenWithin s.params.extMemSize a data.length s.ext ext ∧ t = { s with ext := ext }
    | .error t => ∃ ext x, WrittenWithin s.params.extMemSize a data.length s.ext ext ∧
        t = { s with ext := ext, fault := some (.extMemRange x) } := by
  induction fuel generalizing a data s with
  | zero => exact ⟨s.ext, WrittenWithin.refl _ _ _ _, rfl⟩
  | succ fuel ih =>
    by_cases h0 : data.length = 0
    · simp only [segmentsFrom, if_pos h0, writeSegments]
      exact ⟨s.ext, WrittenWithin.refl _ _ _ _, rfl⟩
    · have hb := segment_bounds a h0
      simp only [segmentsFrom, if_neg h0, writeSegments]
      generalize min data.length (Config.pageSize - a % Config.pageSize) = k at hb
      have hk : (data.take k).length = k := by rw [List.length_take]; omega
      by_cases h : s.params.extMemSize < a + (data.take k).length
      · rw [memWrite_error h]
        exact ⟨s.ext, a, WrittenWithin.refl _ _ _ _, rfl⟩
      · rw [memWrite_ok (Nat.le_of_not_lt h)]
        have hd : data.length - k = (data.drop k).length := by rw [List.length_drop]
        have hw := (putBytes_within (size := s.params.extMemSize) s.ext (Nat.le_of_not_lt h)).mono
          (lo' := a) (n' := data.length) (Nat.le_refl _) (by omega)
        have := ih (a + k) (data.drop k) (s.withExt (putBytes a (data.take k) s.ext))
        rw [hd]
        simp only
        cases hr : writeSegments (segmentsFrom fuel (a + k) (data.drop k).length) (data.drop k)
            (s.withExt (putBytes a (data.take k) s.ext)) with
        | ok t =>
          rw [hr] at this
          obtain ⟨ext, h1, h2⟩ := this
          exact ⟨ext, hw.trans (h1.mono (by omega) (by omega)), h2⟩
        | error t =>
          rw [hr] at this
          obtain ⟨ext, x, h1, h2⟩ := this
          exact ⟨ext, x, hw.trans (h1.mono (by omega) (by omega)), h2⟩

/-- What a line write can do (R152): memory is written inside the line's range, and the bus is given back unless a segment
is past the end of memory. -/
theorem writeLineFlow_spec (g : Screen) (y : Nat) (data : List Byte) (s : State) :
    match writeLineFlow g y data s with
    | .ok t => ∃ ext,
        WrittenWithin s.params.extMemSize (lineAddr s.params g s.writeId y) data.length s.ext ext ∧
          t = { s with ext := ext, bus := .free }
    | .error t => ∃ ext x,
        WrittenWithin s.params.extMemSize (lineAddr s.params g s.writeId y) data.length s.ext ext ∧
          t = { s with ext := ext, bus := .held .a, fault := some (.extMemRange x) } := by
  have := writeSegments_spec data.length (lineAddr s.params g s.writeId y) data (s.takeBus .a)
  simp only [writeLineFlow, segments]
  cases hr : writeSegments (segmentsFrom data.length (lineAddr s.params g s.writeId y) data.length) data
      (s.takeBus .a) with
  | ok t =>
    rw [hr] at this
    obtain ⟨ext, h1, h2⟩ := this
    exact ⟨ext, h1, by rw [h2]; rfl⟩
  | error t =>
    rw [hr] at this
    obtain ⟨ext, x, h1, h2⟩ := this
    exact ⟨ext, x, h1, h2⟩

/-- What a read of segments can do (R153): it changes nothing, or raises ExtMemRange. -/
theorem readSegments_spec (segs : List (Nat × Nat)) (s : State) :
    match readSegments segs s with
    | .ok _ => True
    | .error t => ∃ x, t = { s with fault := some (.extMemRange x) } := by
  induction segs with
  | nil => trivial
  | cons p rest ih =>
    obtain ⟨a, k⟩ := p
    simp only [readSegments]
    by_cases h : s.params.extMemSize < a + k
    · rw [memRead_error h]
      exact ⟨a, rfl⟩
    · rw [memRead_ok (Nat.le_of_not_lt h)]
      simp only
      cases hr : readSegments rest s with
      | ok _ => trivial
      | error t =>
        rw [hr] at ih
        exact ih

/-- What a line read can do (R153): the bus is given back, unless a segment is past the end of memory. -/
theorem readLineFlow_spec (g : Screen) (y n : Nat) (s : State) :
    match readLineFlow g y n s with
    | .ok (_, t) => t = { s with bus := .free }
    | .error t => ∃ x, t = { s with bus := .held .b, fault := some (.extMemRange x) } := by
  have := readSegments_spec (segments (lineAddr s.params g s.readId y) n) (s.takeBus .b)
  simp only [readLineFlow]
  cases hr : readSegments (segments (lineAddr s.params g s.readId y) n) (s.takeBus .b) with
  | ok bs => rfl
  | error t =>
    rw [hr] at this
    exact this

/-- What `write_line` with a step can do (R152): be refused in Text mode, write inside the line's range, or raise. -/
theorem writeLine_spec {y : Nat} {data : List Byte} {s t : State} (h : writeLine? y data s = some t) :
    (s.mode.screen? = none ∧ t = { s with refused := some .textMode }) ∨
      ∃ g ext, s.mode.screen? = some g ∧
        WrittenWithin s.params.extMemSize (lineAddr s.params g s.writeId y) data.length s.ext ext ∧
          (t = { s with ext := ext, bus := .free } ∨
            ∃ x, t = { s with ext := ext, bus := .held .a, fault := some (.extMemRange x) }) := by
  simp only [writeLine?] at h
  split at h
  · exact .inl ⟨‹_›, (Option.some.inj h).symm⟩
  · rename_i g hg
    split at h
    · have hw := writeLineFlow_spec g y data s
      have ht := Option.some.inj h
      cases hr : writeLineFlow g y data s with
      | ok u =>
        rw [hr] at hw ht
        obtain ⟨ext, h1, rfl⟩ := hw
        exact .inr ⟨g, ext, hg, h1, .inl ht.symm⟩
      | error u =>
        rw [hr] at hw ht
        obtain ⟨ext, x, h1, rfl⟩ := hw
        exact .inr ⟨g, ext, hg, h1, .inr ⟨x, ht.symm⟩⟩
    · cases h

/-- What `read_line` with a step can do (R153): be refused in Text mode, return bytes, or raise. -/
theorem readLine_spec {y n : Nat} {s t : State} (h : readLine? y n s = some t) :
    (s.mode.screen? = none ∧ t = { s with refused := some .textMode }) ∨
      (s.mode.screen?.isSome ∧
        ((∃ bs, t = { s with bus := .free, ret := .bytes bs }) ∨
          ∃ x, t = { s with bus := .held .b, fault := some (.extMemRange x) })) := by
  simp only [readLine?] at h
  split at h
  · exact .inl ⟨‹_›, (Option.some.inj h).symm⟩
  · rename_i g hg
    refine .inr ⟨by simp [hg], ?_⟩
    split at h
    · have hw := readLineFlow_spec g y n s
      cases hr : readLineFlow g y n s with
      | ok u =>
        obtain ⟨bs, u⟩ := u
        rw [hr] at hw h
        simp only at hw
        subst hw
        exact .inl ⟨bs, (Option.some.inj h).symm⟩
      | error u =>
        rw [hr] at hw h
        obtain ⟨x, rfl⟩ := hw
        exact .inr ⟨x, (Option.some.inj h).symm⟩
    · cases h

end Sys2Proof.Machine
end

