-- ==== Sys2Proof/Laws/Framer.lean ====
section
/-! SUPPORT. The framer's completion callback as the transition of its phase, and what delivery and completion can change. -/

namespace Sys2Proof.Machine

/-- A full armed block runs the transition of the phase, disarmed (R85). -/
theorem transferComplete_full {s : State} {t : Target} (h : s.frArmed = some (t, s.frFilled)) :
    transferComplete? s = complete? { s with frArmed := none } := by simp [transferComplete?, h]

/-- Completion in AwaitHeaderCrc with the header arrived (R91), before the slot is stored or dropped. -/
theorem completeHeaderCrc_eq {s : State} {f : InFlight} {size : Byte} (h : s.frSlot = some f) (hz : f.size = some size) :
    completeHeaderCrc s =
      if s.frExpected = le16 s.frCrc0 s.frCrc1 ∧ size.toNat ≤ 32 then
        if size.toNat = 0 then awaitToken s.storeSlot
        else { (s.crcClear.arm .pay size.toNat) with frPhase := .awaitPayload }
      else awaitToken s.dropSlot := by
  have hc : (crcOk s && headerValid size) = true ↔ s.frExpected = le16 s.frCrc0 s.frCrc1 ∧ size.toNat ≤ 32 := by
    simp only [crcOk, headerValid, Bool.and_eq_true, beq_iff_eq, decide_eq_true_eq]
    exact Iff.rfl
  have he : headerEmpty size = true ↔ size.toNat = 0 := by
    simp [headerEmpty, ← BitVec.toNat_inj]
  simp only [completeHeaderCrc, slotSize_some h hz, hc, he]

/-- Delivery changes only the receive stream, the buffers, the accumulator and the count (R84). -/
theorem deliver_frame {s t : State} (h : deliver? s = some t) :
    ∃ rx tok c0 c1 slot crc n, t = { s with
      rx := rx, frTok := tok, frCrc0 := c0, frCrc1 := c1, frSlot := slot, crcAcc := crc, frFilled := n } := by
  simp only [deliver?] at h
  split at h
  · rename_i tgt n b rest _ _
    split at h
    · obtain ⟨tok, c0, c1, slot, hp⟩ := putTarget_frame tgt b s
      rw [hp] at h
      exact ⟨_, _, _, _, _, _, _, (Option.some.inj h).symm⟩
    · cases h
  · cases h

/-- Completion changes only the framer's own state, the accumulator, the queue and the count of draws (R89 to R93). -/
theorem transferComplete_frame {s t : State} (h : transferComplete? s = some t) :
    ∃ phase armed n crc expected slot q draws, t = { s with
      frPhase := phase, frArmed := armed, frFilled := n, crcAcc := crc, frExpected := expected, frSlot := slot, q := q
      draws := draws } := by
  simp only [transferComplete?] at h
  split at h
  · split at h
    · simp only [complete?] at h
      split at h
      · cases h
      · cases h
        simp only [completeToken]
        split <;> exact ⟨_, _, _, _, _, _, _, _, rfl⟩
      · cases h
        exact ⟨_, _, _, _, _, _, _, _, rfl⟩
      · cases h
        generalize hu : ({ s with frArmed := none } : State) = u
        obtain ⟨d, hd⟩ := slotSize_frame u
        obtain ⟨slot, q, dr, hs⟩ := storeSlot_frame ({ u with draws := d } : State)
        simp only [completeHeaderCrc, hd, hs]
        subst hu
        split
        · split <;> exact ⟨_, _, _, _, _, _, _, _, rfl⟩
        · exact ⟨_, _, _, _, _, _, _, _, rfl⟩
      · cases h
        exact ⟨_, _, _, _, _, _, _, _, rfl⟩
      · cases h
        generalize hu : ({ s with frArmed := none } : State) = u
        obtain ⟨slot, q, dr, hs⟩ := storeSlot_frame u
        simp only [completePayloadCrc, hs]
        subst hu
        split <;> exact ⟨_, _, _, _, _, _, _, _, rfl⟩
    · cases h
  · cases h

end Sys2Proof.Machine
end

