-- ==== Sys2Proof/Laws/PerInstr.lean ====
section
/-! SUPPORT. The wire form of every instruction: a packet of the length R60 gives, or none for an internal operation. -/

open Sys2Proof Sys2Proof.Machine

/-- A well-formed instruction has a packet that starts with the token, carries at most 32 payload bytes and is 5 bytes
long without a payload and 7 more than its payload with one (R59, R60); or it has no packet. -/
def Sys2Proof.Laws.Wire.Statement (i : Instr) : Prop :=
  ∀ w : Sys2Proof.Wire, i.wellFormed w = true →
    encode w i = none ∨
      ∃ id p bs, encodeMessage w i = some (id, p) ∧ p.length ≤ 32 ∧ encode w i = some bs ∧
        bs.length = (if p = [] then 5 else 7 + p.length) ∧ bs[0]? = some 0x7E#8 ∧ bs[1]? = some id

/-- A packet's length and first bytes (R59, R60). -/
theorem Sys2Proof.Laws.Wire.of_message {i : Instr}
    (h : ∀ w : Sys2Proof.Wire, i.wellFormed w = true → ∃ id p, encodeMessage w i = some (id, p) ∧ p.length ≤ 32) :
    Sys2Proof.Laws.Wire.Statement i := by
  intro w hw
  obtain ⟨id, p, hm, hp⟩ := h w hw
  refine .inr ⟨id, p, packet w id p, hm, hp, by simp [encode, hm], ?_, rfl, rfl⟩
  cases p with
  | nil => rfl
  | cons b bs =>
    simp [packet]
    omega

theorem Sys2Proof.Laws.Wire.modeChange (mode : Byte) (width height : Word16) (depth palette font : Byte) :
    Sys2Proof.Laws.Wire.Statement (.modeChange mode width height depth palette font) :=
  Sys2Proof.Laws.Wire.of_message fun _ _ => ⟨_, _, rfl, by simp⟩

theorem Sys2Proof.Laws.Wire.setPixel (x y : Word16) (color : Pixel) :
    Sys2Proof.Laws.Wire.Statement (.setPixel x y color) :=
  Sys2Proof.Laws.Wire.of_message fun _ _ => ⟨_, _, rfl, by simp⟩

theorem Sys2Proof.Laws.Wire.drawLine (x0 y0 x1 y1 : Word16) (color : Pixel) :
    Sys2Proof.Laws.Wire.Statement (.drawLine x0 y0 x1 y1 color) :=
  Sys2Proof.Laws.Wire.of_message fun _ _ => ⟨_, _, rfl, by simp⟩

theorem Sys2Proof.Laws.Wire.drawTriangle (x0 y0 x1 y1 x2 y2 : Word16) (color : Pixel) :
    Sys2Proof.Laws.Wire.Statement (.drawTriangle x0 y0 x1 y1 x2 y2 color) :=
  Sys2Proof.Laws.Wire.of_message fun _ _ => ⟨_, _, rfl, by simp⟩

theorem Sys2Proof.Laws.Wire.clearScreen (color : Pixel) :
    Sys2Proof.Laws.Wire.Statement (.clearScreen color) :=
  Sys2Proof.Laws.Wire.of_message fun _ _ => ⟨_, _, rfl, by simp⟩

theorem Sys2Proof.Laws.Wire.swapBuffer :
    Sys2Proof.Laws.Wire.Statement .swapBuffer :=
  Sys2Proof.Laws.Wire.of_message fun _ _ => ⟨_, _, rfl, by simp⟩

theorem Sys2Proof.Laws.Wire.beginPrimitives :
    Sys2Proof.Laws.Wire.Statement .beginPrimitives :=
  Sys2Proof.Laws.Wire.of_message fun _ _ => ⟨_, _, rfl, by simp⟩

theorem Sys2Proof.Laws.Wire.endPrimitives :
    Sys2Proof.Laws.Wire.Statement .endPrimitives :=
  Sys2Proof.Laws.Wire.of_message fun _ _ => ⟨_, _, rfl, by simp⟩

theorem Sys2Proof.Laws.Wire.writeVertex (x y z : F32) (color : Pixel) :
    Sys2Proof.Laws.Wire.Statement (.writeVertex x y z color) :=
  Sys2Proof.Laws.Wire.of_message fun _ _ => ⟨_, _, rfl, by simp⟩

theorem Sys2Proof.Laws.Wire.setPerspective (viewAngle aspect zNear zFar : F32) :
    Sys2Proof.Laws.Wire.Statement (.setPerspective viewAngle aspect zNear zFar) :=
  Sys2Proof.Laws.Wire.of_message fun _ _ => ⟨_, _, rfl, by simp⟩

theorem Sys2Proof.Laws.Wire.infoRequest :
    Sys2Proof.Laws.Wire.Statement .infoRequest :=
  Sys2Proof.Laws.Wire.of_message fun _ _ => ⟨_, _, rfl, by simp⟩

theorem Sys2Proof.Laws.Wire.infoResponse (dir : Direction) (mode : Byte) (width height : Word16) (depth readId writeId : Byte) :
    Sys2Proof.Laws.Wire.Statement (.infoResponse dir mode width height depth readId writeId) :=
  Sys2Proof.Laws.Wire.of_message fun _ _ => ⟨_, _, rfl, by simp [infoResponseBytes]⟩

theorem Sys2Proof.Laws.Wire.unknownId (id : Byte) (payload : List Byte) :
    Sys2Proof.Laws.Wire.Statement (.unknownId id payload) :=
  Sys2Proof.Laws.Wire.of_message fun w hw => by
    simp only [Instr.wellFormed, Bool.and_eq_true, decide_eq_true_eq] at hw
    exact ⟨_, _, rfl, hw.2⟩

theorem Sys2Proof.Laws.Wire.crcStep (b : Byte) :
    Sys2Proof.Laws.Wire.Statement (.crcStep b) := fun _ _ => .inl rfl

theorem Sys2Proof.Laws.Wire.crcReset :
    Sys2Proof.Laws.Wire.Statement .crcReset := fun _ _ => .inl rfl

theorem Sys2Proof.Laws.Wire.crcRead :
    Sys2Proof.Laws.Wire.Statement .crcRead := fun _ _ => .inl rfl

theorem Sys2Proof.Laws.Wire.crcCheck :
    Sys2Proof.Laws.Wire.Statement .crcCheck := fun _ _ => .inl rfl

theorem Sys2Proof.Laws.Wire.arm (target : Target) (n : Nat) :
    Sys2Proof.Laws.Wire.Statement (.arm target n) := fun _ _ => .inl rfl

theorem Sys2Proof.Laws.Wire.deliver :
    Sys2Proof.Laws.Wire.Statement .deliver := fun _ _ => .inl rfl

theorem Sys2Proof.Laws.Wire.transferComplete :
    Sys2Proof.Laws.Wire.Statement .transferComplete := fun _ _ => .inl rfl

theorem Sys2Proof.Laws.Wire.allocSlot :
    Sys2Proof.Laws.Wire.Statement .allocSlot := fun _ _ => .inl rfl

theorem Sys2Proof.Laws.Wire.store :
    Sys2Proof.Laws.Wire.Statement .store := fun _ _ => .inl rfl

theorem Sys2Proof.Laws.Wire.drop :
    Sys2Proof.Laws.Wire.Statement .drop := fun _ _ => .inl rfl

theorem Sys2Proof.Laws.Wire.pop :
    Sys2Proof.Laws.Wire.Statement .pop := fun _ _ => .inl rfl

theorem Sys2Proof.Laws.Wire.register (id : Byte) (kind : CommandKind) :
    Sys2Proof.Laws.Wire.Statement (.register id kind) := fun _ _ => .inl rfl

theorem Sys2Proof.Laws.Wire.dispatch :
    Sys2Proof.Laws.Wire.Statement .dispatch := fun _ _ => .inl rfl

theorem Sys2Proof.Laws.Wire.addTriangle (v0 v1 v2 : Point) (color : Pixel) :
    Sys2Proof.Laws.Wire.Statement (.addTriangle v0 v1 v2 color) := fun _ _ => .inl rfl

theorem Sys2Proof.Laws.Wire.render :
    Sys2Proof.Laws.Wire.Statement .render := fun _ _ => .inl rfl

theorem Sys2Proof.Laws.Wire.flatten :
    Sys2Proof.Laws.Wire.Statement .flatten := fun _ _ => .inl rfl

theorem Sys2Proof.Laws.Wire.writeLine (y : Nat) (data : List Byte) :
    Sys2Proof.Laws.Wire.Statement (.writeLine y data) := fun _ _ => .inl rfl

theorem Sys2Proof.Laws.Wire.readLine (y n : Nat) :
    Sys2Proof.Laws.Wire.Statement (.readLine y n) := fun _ _ => .inl rfl

theorem Sys2Proof.Laws.Wire.swap :
    Sys2Proof.Laws.Wire.Statement .swap := fun _ _ => .inl rfl

theorem Sys2Proof.Laws.Wire.getSlot :
    Sys2Proof.Laws.Wire.Statement .getSlot := fun _ _ => .inl rfl

theorem Sys2Proof.Laws.Wire.scanlineRead :
    Sys2Proof.Laws.Wire.Statement .scanlineRead := fun _ _ => .inl rfl

theorem Sys2Proof.Laws.Wire.submit :
    Sys2Proof.Laws.Wire.Statement .submit := fun _ _ => .inl rfl

theorem Sys2Proof.Laws.Wire.renderTick :
    Sys2Proof.Laws.Wire.Statement .renderTick := fun _ _ => .inl rfl
end

