-- ==== Sys2Proof/Laws/Raster.lean ====
section
/-! SUPPORT. What drawing on a line buffer does: runs of pixels, one primitive, the whole queue. -/

namespace Sys2Proof.Machine

/-- A run keeps the length of the line. -/
@[simp] theorem putRun_length (w y : Nat) (c : Pixel) (n : Nat) (x : Int) (lb : List Pixel) :
    (putRun w y c n x lb).1.length = lb.length := by
  induction n generalizing x lb with
  | zero => rfl
  | succ n ih =>
    simp only [putRun]
    split
    · rfl
    · rw [ih, List.length_set]

/-- A run inside the line raises nothing, sets its own pixels and leaves the others (R125). -/
theorem putRun_inside {w y : Nat} {c : Pixel} {n x : Nat} {lb : List Pixel} (h : x + n ≤ w) (hl : lb.length = w) :
    (putRun w y c n x lb).2 = none ∧
      ∀ i : Nat, (putRun w y c n x lb).1[i]? = if x ≤ i ∧ i < x + n then some c else lb[i]? := by
  induction n generalizing x lb with
  | zero => exact ⟨rfl, fun i => by rw [if_neg (by omega)]; rfl⟩
  | succ n ih =>
    simp only [putRun]
    rw [if_neg (by omega)]
    have := ih (x := x + 1) (lb := lb.set x c) (by omega) (by simpa using hl)
    refine ⟨by simpa using this.1, fun i => ?_⟩
    have hi := this.2 i
    simp only [Int.natCast_add, Int.cast_ofNat_Int] at hi
    rw [Int.toNat_natCast, hi, List.getElem?_set]
    by_cases h1 : x = i
    · subst h1
      simp [show x < lb.length by omega]
    · by_cases h2 : x + 1 ≤ i ∧ i < x + 1 + n
      · rw [if_pos h2, if_pos (by omega)]
      · rw [if_neg h1, if_neg h2, if_neg (by omega)]

/-- The fault a run can raise is a pixel out of range, on its line (R125). -/
theorem putRun_fault {w y : Nat} {c : Pixel} {n : Nat} {x : Int} {lb : List Pixel} {f : FaultInfo}
    (h : (putRun w y c n x lb).2 = some f) : ∃ x', f = .pixelOutOfRange x' y := by
  induction n generalizing x lb with
  | zero => cases h
  | succ n ih =>
    simp only [putRun] at h
    split at h
    · exact ⟨x, (Option.some.inj h).symm⟩
    · exact ih h

/-- A primitive drawn keeps the length of the line; what it raises is a pixel out of range on that line. -/
theorem drawPrimitive_spec (g : Screen) (y : Nat) (lb : List Pixel) (p : Primitive) :
    (drawPrimitive g y lb p).1.length = lb.length ∧
      ∀ f, (drawPrimitive g y lb p).2.1 = some f → ∃ x, f = .pixelOutOfRange x y := by
  cases p with
  | tri t =>
    simp only [drawPrimitive]
    split
    · exact ⟨by simp [putSpan], fun f h => putRun_fault h⟩
    · exact ⟨rfl, fun f h => by cases h⟩
  | span s =>
    simp only [drawPrimitive]
    split
    · exact ⟨by simp [putSpan], fun f h => putRun_fault h⟩
    · exact ⟨rfl, fun f h => by cases h⟩

/-- The queue drawn on a line (R132): only the line buffer, of the same length, and the queue change, or a pixel out of
range is raised as well. -/
theorem drawPrimitives_spec (g : Screen) (y : Nat) (drawn ps : List Primitive) (s : State) :
    match drawPrimitives g y drawn ps s with
    | .ok t => ∃ lb prims, lb.length = s.lb.length ∧ t = { s with lb := lb, prims := prims }
    | .error t => ∃ lb prims x, lb.length = s.lb.length ∧
        t = { s with lb := lb, prims := prims, fault := some (.pixelOutOfRange x y) } := by
  induction ps generalizing drawn s with
  | nil => exact ⟨s.lb, drawn, rfl, rfl⟩
  | cons p rest ih =>
    obtain ⟨hl, hf⟩ := drawPrimitive_spec g y s.lb p
    simp only [drawPrimitives]
    rcases hd : drawPrimitive g y s.lb p with ⟨lb, o, p'⟩
    rw [hd] at hl hf
    cases o with
    | none =>
      have := ih (drawn ++ [p']) { s with lb := lb }
      simp only
      cases hr : drawPrimitives g y (drawn ++ [p']) rest { s with lb := lb } with
      | ok t =>
        rw [hr] at this
        obtain ⟨lb', ps', h1, h2⟩ := this
        exact ⟨lb', ps', h1.trans hl, h2⟩
      | error t =>
        rw [hr] at this
        obtain ⟨lb', ps', x, h1, h2⟩ := this
        exact ⟨lb', ps', x, h1.trans hl, h2⟩
    | some f =>
      obtain ⟨x, rfl⟩ := hf f rfl
      exact ⟨lb, _, x, hl, rfl⟩

open Sys2Proof.Safety in
/-- A primitive that a pass brings to line `y` is drawn there as its run, and left as the next line finds it (R129, R130). -/
theorem drawPrimitive_atLine {g : Screen} {y : Nat} {lb : List Pixel} {p : Primitive} {q : Span} (hq : spanOn y p = some q) :
    drawPrimitive g y lb (atLine y p) =
      ((putSpan g.width.toNat y (pixelValue g.depth.bits q.color) q.x0 q.x1 lb).1,
        (putSpan g.width.toNat y (pixelValue g.depth.bits q.color) q.x0 q.x1 lb).2, atLine (y + 1) p) := by
  cases p with
  | tri t =>
    simp only [spanOn] at hq
    split at hq
    · rename_i hy
      cases hq
      have h1 : y + 1 - t.minY.toNat = y - t.minY.toNat + 1 := by omega
      have h2 : t.minY.toNat + (y - t.minY.toNat) = y := by omega
      simp only [drawPrimitive, atLine, Tri.onLine, hy.1, hy.2, decide_true, Bool.and_self, if_true, Tri.advance,
        Tri.slopes, h1, edgesAfter, h2]
      cases t.longLeft <;> rfl
    · cases hq
  | span r =>
    simp only [spanOn] at hq
    split at hq
    · rename_i hy
      cases hq
      simp only [drawPrimitive, atLine, hy, if_true]
    · cases hq

open Sys2Proof.Safety in
/-- On a line that is none of its own a primitive draws nothing (R132). -/
theorem drawPrimitive_off {g : Screen} {y : Nat} {lb : List Pixel} {p : Primitive} (hq : spanOn y p = none) :
    drawPrimitive g y lb (atLine y p) = (lb, none, atLine y p) := by
  cases p with
  | tri t =>
    simp only [spanOn] at hq
    split at hq
    · cases hq
    · rename_i hy
      have : (t.minY.toNat ≤ y ∧ y ≤ t.maxY.toNat) = False := eq_false hy
      simp [drawPrimitive, atLine, Tri.onLine, ← Bool.decide_and, this]
  | span r =>
    simp only [spanOn] at hq
    split at hq
    · cases hq
    · rename_i hy
      simp [drawPrimitive, atLine, hy]

end Sys2Proof.Machine
end

