-- ==== Sys2Proof/Laws/Render.lean ====
section
/-! SUPPORT. What the parts of a render pass can do, each said once: flattening, one line, the lines, the pass. -/

namespace Sys2Proof.Machine

/-! ### Flattening -/

/-- Flattening triangles queues primitives, or raises NonFiniteVertex after some of them (R138, R144). -/
theorem flattenTriangles_spec (g : Screen) (m : Scene) (vs : List Vertex3) (s : State) :
    match flattenTriangles g m vs s with
    | .ok t => ∃ prims, t = { s with prims := prims }
    | .error t => ∃ prims v, t = { s with prims := prims, fault := some (.nonFiniteVertex v) } := by
  induction vs, s using flattenTriangles.induct g m with
  | case1 v0 v1 v2 rest s t h =>
    simp only [flattenTriangles, h]
    simp only [toPixelFlow] at h
    split at h
    · cases h
    · cases h
      exact ⟨s.prims, v0, rfl⟩
  | case2 v0 v1 v2 rest s p0 h0 t h =>
    simp only [flattenTriangles, h0, h]
    simp only [toPixelFlow] at h
    split at h
    · cases h
    · cases h
      exact ⟨s.prims, v1, rfl⟩
  | case3 v0 v1 v2 rest s p0 h0 p1 h1 t h =>
    simp only [flattenTriangles, h0, h1, h]
    simp only [toPixelFlow] at h
    split at h
    · cases h
    · cases h
      exact ⟨s.prims, v2, rfl⟩
  | case4 v0 v1 v2 rest s p0 h0 p1 h1 p2 h2 ih =>
    simp only [flattenTriangles, h0, h1, h2]
    cases hr : flattenTriangles g m rest (s.addTriangle p0 p1 p2 v0.color) with
    | ok t =>
      rw [hr] at ih
      exact ih
    | error t =>
      rw [hr] at ih
      exact ih
  | case5 _ _ s => exact ⟨s.prims, rfl⟩
  | case6 _ s => exact ⟨s.prims, rfl⟩
  | case7 s => exact ⟨s.prims, rfl⟩

/-- What `flatten` can do (R138): it writes the primitive queue and the mesh, or raises NonFiniteVertex. -/
theorem flattenFlow_spec (s : State) :
    match flattenFlow s with
    | .ok t => ∃ prims mode, mode.screen? = s.mode.screen? ∧ mode.width = s.mode.width ∧ mode.height = s.mode.height ∧
        t = { s with prims := prims, mode := mode }
    | .error t => ∃ prims v, t = { s with prims := prims, fault := some (.nonFiniteVertex v) } := by
  simp only [flattenFlow]
  cases hm : s.mode with
  | text w h f => exact ⟨s.prims, s.mode, by rw [hm], by rw [hm], by rw [hm], rfl⟩
  | graphic2D g => exact ⟨s.prims, s.mode, by rw [hm], by rw [hm], by rw [hm], rfl⟩
  | graphic3D g m =>
    by_cases hc : m.meshState = .closed
    · simp only [if_pos hc]
      have := flattenTriangles_spec g m m.mesh s
      cases hr : flattenTriangles g m m.mesh s with
      | ok t =>
        rw [hr] at this
        obtain ⟨prims, rfl⟩ := this
        exact ⟨prims, .graphic3D g { m with mesh := [], meshState := .idle }, rfl, rfl, rfl, rfl⟩
      | error t =>
        rw [hr] at this
        obtain ⟨prims, v, rfl⟩ := this
        exact ⟨prims, v, by rw [hm]⟩
    · simp only [if_neg hc]
      exact ⟨s.prims, s.mode, by rw [hm], by rw [hm], by rw [hm], rfl⟩

/-- A mode without a closed mesh is not flattened (R138). -/
theorem flattenFlow_open {s : State} (h : ∀ g m, s.mode = .graphic3D g m → m.meshState ≠ .closed) :
    flattenFlow s = .ok s := by
  simp only [flattenFlow]
  cases hm : s.mode with
  | text w h f => rfl
  | graphic2D g => rfl
  | graphic3D g m => simp [h g m hm]

/-- A closed mesh is flattened and cleared (R138). -/
theorem flattenFlow_closed {s : State} {g : Screen} {m : Scene} (hm : s.mode = .graphic3D g m)
    (hc : m.meshState = .closed) :
    flattenFlow s =
      match flattenTriangles g m m.mesh s with
      | .ok t => .ok { t with mode := .graphic3D g { m with mesh := [], meshState := .idle } }
      | .error t => .error t := by
  simp only [flattenFlow, hm]
  exact if_pos hc

/-- There is a closed mesh to flatten, or none (R138). -/
theorem closed_mesh_or_none (s : State) :
    (∃ g m, s.mode = .graphic3D g m ∧ m.meshState = .closed) ∨
      ∀ g m, s.mode = .graphic3D g m → m.meshState ≠ .closed :=
  (Classical.em _).imp id fun hn g m hm hc => hn ⟨g, m, hm, hc⟩

/-- What flattening leaves has no closed mesh, so flattening it again does nothing (R138). -/
theorem flattenFlow_twice {s t : State} (h : flattenFlow s = .ok t) : flattenFlow t = .ok t := by
  rcases closed_mesh_or_none s with ⟨g, m, hm, hc⟩ | ho
  · rw [flattenFlow_closed hm hc] at h
    cases hr : flattenTriangles g m m.mesh s with
    | error u =>
      rw [hr] at h
      cases h
    | ok u =>
      rw [hr] at h
      cases h
      exact flattenFlow_open fun _ _ h' => by cases h'; exact nofun
  · rw [flattenFlow_open ho] at h
    cases h
    exact flattenFlow_open ho

/-- A flow that ends in the same state but for who holds the lock. -/
def flowWithLock (l : Lock) : Flow → Flow
  | .ok t => .ok { t with lock := l }
  | .error t => .error { t with lock := l }

/-- Flattening triangles neither reads nor writes the lock (R138). -/
theorem flattenTriangles_lock (g : Screen) (m : Scene) (l : Lock) :
    ∀ (vs : List Vertex3) (s : State),
      flattenTriangles g m vs { s with lock := l } = flowWithLock l (flattenTriangles g m vs s)
  | [], _ => rfl
  | [_], _ => rfl
  | [_, _], _ => rfl
  | v0 :: v1 :: v2 :: rest, s => by
    simp only [flattenTriangles, toPixelFlow]
    cases toPixel? s.params g m v0 with
    | none => rfl
    | some p0 =>
      cases toPixel? s.params g m v1 with
      | none => rfl
      | some p1 =>
        cases toPixel? s.params g m v2 with
        | none => rfl
        | some p2 => exact flattenTriangles_lock g m l rest (s.addTriangle p0 p1 p2 v0.color)

/-- `flatten` neither reads nor writes the lock (R138; log 32). -/
theorem flattenFlow_lock (s : State) (l : Lock) :
    flattenFlow { s with lock := l } = flowWithLock l (flattenFlow s) := by
  rcases closed_mesh_or_none s with ⟨g, m, hm, hc⟩ | ho
  · rw [flattenFlow_closed hm hc, flattenFlow_closed (s := { s with lock := l }) hm hc, flattenTriangles_lock]
    cases flattenTriangles g m m.mesh s <;> rfl
  · rw [flattenFlow_open ho, flattenFlow_open (s := { s with lock := l }) ho]
    rfl

/-! ### One line -/

/-- The line buffer cleared has the screen's width. -/
@[simp] theorem clearedLine_length (g : Screen) (c : Pixel) : (clearedLine g c).length = g.width.toNat := by
  simp [clearedLine]

/-- What one line of the pass can do (R132): it writes the line buffer, the queue and the line's bytes; or a pixel is out
of range, with the bus untouched, or the line is past the end of memory, with the bus held. -/
theorem renderLine_spec (g : Screen) (y : Nat) (s : State) :
    match renderLine g y s with
    | .ok t => ∃ lb prims ext,
        WrittenWithin s.params.extMemSize (lineAddr s.params g s.writeId y) g.stride s.ext ext ∧
          t = { s with lb := lb, prims := prims, ext := ext, bus := .free, aPhase := .render y }
    | .error t => ∃ lb prims ext bus f,
        WrittenWithin s.params.extMemSize (lineAddr s.params g s.writeId y) g.stride s.ext ext ∧
          ((∃ x, f = .pixelOutOfRange x y) ∨
            (∃ x, f = .extMemRange x ∧ s.params.extMemSize < lineAddr s.params g s.writeId y + g.stride)) ∧
          t = { s with lb := lb, prims := prims, ext := ext, bus := bus, aPhase := .render y, fault := some f } := by
  have hd := drawPrimitives_spec g y [] s.prims { s with lb := clearedLine g s.clearColor, aPhase := .render y }
  simp only [renderLine]
  cases hr : drawPrimitives g y [] s.prims { s with lb := clearedLine g s.clearColor, aPhase := .render y } with
  | error t =>
    rw [hr] at hd
    obtain ⟨lb, prims, x, _, rfl⟩ := hd
    exact ⟨lb, prims, s.ext, s.bus, _, WrittenWithin.refl _ _ _ _, .inl ⟨x, rfl⟩, rfl⟩
  | ok t =>
    rw [hr] at hd
    obtain ⟨lb, prims, hl, rfl⟩ := hd
    rw [clearedLine_length] at hl
    have hp : (pack g.depth.bits lb).length = g.stride := by rw [pack_length, hl]; rfl
    have hw := writeLineFlow_spec g y (pack g.depth.bits lb)
      { s with lb := lb, aPhase := .render y, prims := prims }
    simp only
    cases hr2 : writeLineFlow g y (pack g.depth.bits lb) { s with lb := lb, aPhase := .render y, prims := prims } with
    | ok t =>
      rw [hr2] at hw
      obtain ⟨ext, h1, rfl⟩ := hw
      rw [hp] at h1
      exact ⟨lb, prims.filter fun p => !retired y p, ext, h1, rfl⟩
    | error t =>
      by_cases hfit : lineAddr s.params g s.writeId y + g.stride ≤ s.params.extMemSize
      · rw [writeLineFlow_ok (by rw [hp]; exact hfit)] at hr2
        cases hr2
      · rw [hr2] at hw
        obtain ⟨ext, x, h1, rfl⟩ := hw
        rw [hp] at h1
        exact ⟨lb, prims, ext, .held .a, _, h1, .inr ⟨x, rfl, Nat.lt_of_not_le hfit⟩, rfl⟩

/-- A line drawn without a fault and inside memory (R132). -/
theorem renderLine_ok {g : Screen} {y : Nat} {s : State} {lb : List Pixel} {prims : List Primitive}
    (hd : drawPrimitives g y [] s.prims { s with lb := clearedLine g s.clearColor, aPhase := .render y } =
      .ok { s with lb := lb, prims := prims, aPhase := .render y })
    (hl : lb.length = g.width.toNat) (hfit : lineAddr s.params g s.writeId y + g.stride ≤ s.params.extMemSize) :
    renderLine g y s = .ok { s with
      lb := lb, prims := prims.filter fun p => !retired y p
      ext := putBytes (lineAddr s.params g s.writeId y) (pack g.depth.bits lb) s.ext
      bus := .free, aPhase := .render y } := by
  have hp : (pack g.depth.bits lb).length = g.stride := by rw [pack_length, hl]; rfl
  simp only [renderLine, hd]
  rw [writeLineFlow_ok (by rw [hp]; exact hfit)]
  rfl

/-! ### The pass -/

/-- Line `y` of a plane of `h` lines lies inside the plane. -/
theorem line_in_plane {g : Screen} {p : Params} {plane : PlaneId} {y h : Nat} (hy : y < h) :
    planeBase p plane ≤ lineAddr p g plane y ∧ lineAddr p g plane y + g.stride ≤ planeBase p plane + h * g.stride := by
  have : (y + 1) * g.stride ≤ h * g.stride := Nat.mul_le_mul_right _ hy
  rw [Nat.succ_mul] at this
  simp only [lineAddr]
  omega

/-- What the lines of a pass can do (R132). -/
theorem renderLines_spec (g : Screen) (ys : List Nat) (s : State) (hy : ∀ y, y ∈ ys → y < g.height.toNat) :
    match renderLines g ys s with
    | .ok t => ∃ lb prims ext bus phase,
        WrittenWithin s.params.extMemSize (planeBase s.params s.writeId) (g.height.toNat * g.stride) s.ext ext ∧
          (bus = s.bus ∨ bus = .free) ∧
          t = { s with lb := lb, prims := prims, ext := ext, bus := bus, aPhase := phase }
    | .error t => ∃ lb prims ext bus y f,
        WrittenWithin s.params.extMemSize (planeBase s.params s.writeId) (g.height.toNat * g.stride) s.ext ext ∧
          ((∃ x, f = .pixelOutOfRange x y) ∨
            (∃ x, f = .extMemRange x ∧
              s.params.extMemSize < planeBase s.params s.writeId + g.height.toNat * g.stride)) ∧
          t = { s with lb := lb, prims := prims, ext := ext, bus := bus, aPhase := .render y, fault := some f } := by
  induction ys generalizing s with
  | nil => exact ⟨s.lb, s.prims, s.ext, s.bus, s.aPhase, WrittenWithin.refl _ _ _ _, .inl rfl, rfl⟩
  | cons y rest ih =>
    obtain ⟨hlo, hhi⟩ := line_in_plane (g := g) (p := s.params) (plane := s.writeId) (hy y List.mem_cons_self)
    have hl := renderLine_spec g y s
    simp only [renderLines]
    cases hr : renderLine g y s with
    | error t =>
      rw [hr] at hl
      obtain ⟨lb, prims, ext, bus, f, hw, hf, rfl⟩ := hl
      refine ⟨lb, prims, ext, bus, y, f, hw.mono hlo hhi, hf.imp id ?_, rfl⟩
      rintro ⟨x, h1, h2⟩
      exact ⟨x, h1, by omega⟩
    | ok t =>
      rw [hr] at hl
      obtain ⟨lb, prims, ext, hw, rfl⟩ := hl
      have := ih { s with lb := lb, prims := prims, ext := ext, bus := .free, aPhase := .render y }
        fun z hz => hy z (List.mem_cons_of_mem _ hz)
      simp only
      cases hr2 : renderLines g rest
          { s with lb := lb, prims := prims, ext := ext, bus := .free, aPhase := .render y } with
      | ok t =>
        rw [hr2] at this
        obtain ⟨lb', prims', ext', bus', phase', hw', hb, rfl⟩ := this
        exact ⟨lb', prims', ext', bus', phase', (hw.mono hlo hhi).trans hw', .inr (hb.elim id id), rfl⟩
      | error t =>
        rw [hr2] at this
        obtain ⟨lb', prims', ext', bus', y', f, hw', hf, rfl⟩ := this
        exact ⟨lb', prims', ext', bus', y', f, (hw.mono hlo hhi).trans hw', hf, rfl⟩

/-- The end of a pass that holds the lock (R132). -/
theorem finishPass_held {s : State} (h : s.lock = .held .a) :
    finishPass s =
      { s with mode := spin s.params s.mode, lock := .free, tickDone := true, aPhase := .idle } := by
  have := releaseLock_held (g := .a) (s := { s with mode := spin s.params s.mode }) h
  simp only [finishPass, this]

/-- What a pass with the lock held can do (R132, R135): end with the queue empty and the lock given back, or raise one of
the four faults with the lock held. -/
theorem renderPass_spec (g : Screen) (s : State) (hl : s.lock = .held .a) :
    match renderPass g s with
    | .ok t => ∃ lb ext bus mode,
        WrittenWithin s.params.extMemSize (planeBase s.params s.writeId) (g.height.toNat * g.stride) s.ext ext ∧
          (bus = s.bus ∨ bus = .free) ∧
          mode.screen? = s.mode.screen? ∧ mode.width = s.mode.width ∧ mode.height = s.mode.height ∧
          t = { s with
            lb := lb, prims := [], ext := ext, bus := bus, mode := mode, lock := .free, tickDone := true
            aPhase := .idle }
    | .error t => ∃ lb prims ext bus mode phase f,
        WrittenWithin s.params.extMemSize (planeBase s.params s.writeId) (g.height.toNat * g.stride) s.ext ext ∧
          mode.screen? = s.mode.screen? ∧ mode.width = s.mode.width ∧ mode.height = s.mode.height ∧
          (∀ x, f = .extMemRange x →
            s.params.extMemSize < planeBase s.params s.writeId + g.height.toNat * g.stride) ∧
          t = { s with
            lb := lb, prims := prims, ext := ext, bus := bus, mode := mode, aPhase := phase, fault := some f } := by
  have hf := flattenFlow_spec s
  simp only [renderPass]
  cases hr : flattenFlow s with
  | error t =>
    rw [hr] at hf
    obtain ⟨prims, v, rfl⟩ := hf
    exact ⟨s.lb, prims, s.ext, s.bus, s.mode, s.aPhase, .nonFiniteVertex v, WrittenWithin.refl _ _ _ _, rfl, rfl, rfl,
      nofun, rfl⟩
  | ok t =>
    rw [hr] at hf
    obtain ⟨prims, mode, hm, hmw, hmh, rfl⟩ := hf
    have := renderLines_spec g (List.range g.height.toNat) { s with prims := prims, mode := mode }
      fun y hy => List.mem_range.mp hy
    simp only
    cases hr2 : renderLines g (List.range g.height.toNat) { s with prims := prims, mode := mode } with
    | error t =>
      rw [hr2] at this
      obtain ⟨lb', prims', ext', bus', y', f, hw', hf, rfl⟩ := this
      refine ⟨lb', prims', ext', bus', mode, .render y', f, hw', hm, hmw, hmh, fun x hx => ?_, rfl⟩
      rcases hf with ⟨_, rfl⟩ | ⟨_, _, h⟩
      · cases hx
      · exact h
    | ok t =>
      rw [hr2] at this
      obtain ⟨lb', prims', ext', bus', phase', hw', hb, rfl⟩ := this
      simp only
      cases prims' with
      | cons p ps =>
        exact ⟨lb', p :: ps, ext', bus', mode, phase', .triangleNotRetired (p :: ps).length, hw', hm, hmw, hmh, nofun, rfl⟩
      | nil =>
        refine ⟨lb', ext', bus', spin s.params mode, hw', hb, ?_, ?_, ?_, ?_⟩
        · rw [← hm]; cases mode <;> rfl
        · rw [← hmw]; cases mode <;> rfl
        · rw [← hmh]; cases mode <;> rfl
        · rw [finishPass_held (by exact hl)]

/-- A pass is the pass over what flattening leaves (R132, R138). -/
theorem renderPass_flattened {g : Screen} {s t : State} (h : flattenFlow s = .ok t) :
    renderPass g s = renderPass g t := by simp only [renderPass, h, flattenFlow_twice h]

/-- `render` in its phase with the lock and the bus free is a pass with the lock held (R132). -/
theorem render?_free {s : State} {g : Screen} {l : Nat} (hg : s.mode.screen? = some g) (hp : s.aPhase = .render l)
    (hl : s.lock = .free) (hb : s.bus = .free) :
    render? s = some (flowEnd (renderPass g { s with lock := .held .a })) := by
  simp [render?, hp, acquireLock, hl, hg, busReady, hb]

/-- What `render` with a step can do (R132, R135, R136): be refused in Text mode, finish the pass, or raise; after a
refusal or a fault the lock is held. -/
theorem render_spec {s t : State} (h : render? s = some t) :
    s.lock = .free ∧
      ((s.mode.screen? = none ∧ t = { s with lock := .held .a, refused := some .textMode }) ∨
        ∃ g lb ext bus mode, s.mode.screen? = some g ∧
          WrittenWithin s.params.extMemSize (planeBase s.params s.writeId) (g.height.toNat * g.stride) s.ext ext ∧
          mode.screen? = s.mode.screen? ∧ mode.width = s.mode.width ∧ mode.height = s.mode.height ∧
          (((bus = s.bus ∨ bus = .free) ∧
              t = { s with
                lb := lb, prims := [], ext := ext, bus := bus, mode := mode, tickDone := true, aPhase := .idle }) ∨
            ∃ prims phase f,
              (∀ x, f = .extMemRange x →
                s.params.extMemSize < planeBase s.params s.writeId + g.height.toNat * g.stride) ∧
              t = { s with
                lb := lb, prims := prims, ext := ext, bus := bus, mode := mode, lock := .held .a, aPhase := phase
                fault := some f })) := by
  simp only [render?] at h
  split at h
  · cases h
  · cases h
  · split at h
    · cases h
    · rename_i u hu
      obtain ⟨hl, rfl⟩ := acquireLock_some hu
      refine ⟨hl, ?_⟩
      split at h
      · exact .inl ⟨‹_›, (Option.some.inj h).symm⟩
      · rename_i g hg
        refine .inr ?_
        split at h
        · have hp := renderPass_spec g { s with lock := .held .a } rfl
          have ht := Option.some.inj h
          cases hr : renderPass g { s with lock := .held .a } with
          | ok u =>
            rw [hr] at hp ht
            obtain ⟨lb, ext, bus, mode, hw, hb, hm, hmw, hmh, rfl⟩ := hp
            refine ⟨g, lb, ext, bus, mode, hg, hw, hm, hmw, hmh, .inl ⟨hb, ?_⟩⟩
            rw [flowEnd_ok] at ht
            rw [← ht, ← hl]
          | error u =>
            rw [hr] at hp ht
            obtain ⟨lb, prims, ext, bus, mode, phase, f, hw, hm, hmw, hmh, hf, rfl⟩ := hp
            exact ⟨g, lb, ext, bus, mode, hg, hw, hm, hmw, hmh, .inr ⟨prims, phase, f, hf, ht.symm⟩⟩
        · cases h

end Sys2Proof.Machine
end

