-- ==== Sys2Proof/Laws/Scanline.lean ====
section
/-! SUPPORT. What context B's operations can do. -/

namespace Sys2Proof.Machine

/-- What `get_slot` with a step does (R158). -/
theorem getSlot_spec {s t : State} (h : getSlot? s = some t) :
    s.bPhase = .getSlot ∧ ∃ req phase, (phase = .waitTick ∨ phase = .read) ∧
      t = { s with
        bSlot := some s.dispNext, dispNext := nextSlot s.params s.dispNext, tickReq := req, bPhase := phase } := by
  simp only [getSlot?] at h
  split at h
  · refine ⟨‹_›, ?_⟩
    split at h
    · refine ⟨true, if s.params.tickBlocksB then .waitTick else .read, ?_, (Option.some.inj h).symm⟩
      split <;> simp
    · exact ⟨s.tickReq, .read, .inr rfl, (Option.some.inj h).symm⟩
  all_goals cases h

/-- What `scanline_read` with a step can do (R161, R136): be refused in Text mode, put a line's pixels into the buffer with
the mode's palette, or raise ExtMemRange at a line past the end of memory; after a refusal or a fault the lock is held. -/
theorem scanlineRead_spec {s t : State} (h : scanlineRead? s = some t) :
    s.bPhase = .read ∧ s.lock = .free ∧
      ((s.mode.screen? = none ∧ t = { s with lock := .held .b, refused := some .textMode }) ∨
        ∃ g, s.mode.screen? = some g ∧
          ((∃ pixels bus draws, pixels.length = g.width.toNat ∧ (bus = s.bus ∨ bus = .free) ∧
              t = { s with
                bPixels := pixels, bPalette := g.paletteDepth, bus := bus, draws := draws, bPhase := .submit }) ∨
            ∃ x y, y < g.height.toNat ∧ s.params.extMemSize < lineAddr s.params g s.readId y + g.stride ∧
              t = { s with lock := .held .b, bus := .held .b, fault := some (.extMemRange x) })) := by
  simp only [scanlineRead?] at h
  split at h
  · rename_i hb
    refine ⟨hb, ?_⟩
    split at h
    · cases h
    · rename_i u hu
      obtain ⟨hl, rfl⟩ := acquireLock_some hu
      refine ⟨hl, ?_⟩
      split at h
      · exact .inl ⟨‹_›, (Option.some.inj h).symm⟩
      · cases h
      · rename_i g slot hg _
        refine .inr ⟨g, hg, ?_⟩
        split at h
        · rename_i hy
          split at h
          · have ht := Option.some.inj h
            have hr := readLineFlow_spec g (logicalLine s.params slot) g.stride { s with lock := .held .b }
            simp only [readScanline] at ht
            cases hc : readLineFlow g (logicalLine s.params slot) g.stride { s with lock := .held .b } with
            | ok u =>
              obtain ⟨bs, u⟩ := u
              rw [hc] at hr ht
              simp only at hr
              subst hr
              simp only [flowEnd_ok] at ht
              rw [releaseLock_held rfl] at ht
              refine .inl ⟨unpack g.depth.bits g.width.toNat bs, .free, s.draws, by simp, .inr rfl, ?_⟩
              rw [← ht, ← hl]
            | error u =>
              by_cases hfit : lineAddr s.params g s.readId (logicalLine s.params slot) + g.stride ≤ s.params.extMemSize
              · rw [readLineFlow_ok (by exact hfit)] at hc
                cases hc
              · rw [hc] at hr ht
                obtain ⟨x, rfl⟩ := hr
                exact .inr ⟨x, _, hy, Nat.lt_of_not_le hfit, ht.symm⟩
          · cases h
        · have ht := Option.some.inj h
          simp only [drawScanline] at ht
          rw [releaseLock_held rfl] at ht
          refine .inl ⟨_, s.bus, s.draws + 1, ?_, .inl rfl, by rw [← ht, ← hl]⟩
          simp
  all_goals cases h

/-- The display value of a pixel under the palette of a screen (R163). -/
theorem displayPixel_paletteDepth (g : Screen) (p : Pixel) :
    displayPixel g.paletteDepth p =
      if g.palette then Config.videoPixel (Config.palette g.depth p) else Config.videoPixel p.toNat := by
  simp only [displayPixel, Screen.paletteDepth]
  cases g.palette <;> rfl

/-- What `submit` with a step does (R165). -/
theorem submit_spec {s t : State} (h : submit? s = some t) :
    ∃ slot, s.bPhase = .submit ∧ s.bSlot = some slot ∧
      t = { s with video := s.video ++ [(slot, scanlineCmd s)], bSlot := none, bPhase := .getSlot } := by
  simp only [submit?] at h
  split at h
  · exact ⟨_, ‹_›, ‹_›, (Option.some.inj h).symm⟩
  all_goals cases h

end Sys2Proof.Machine
end

