-- ==== Sys2Proof/Laws/Step.lean ====
section
/-! SUPPORT. What a step can be: the action of the agent whose turn it is, in a state in which only the turn is used up. -/

namespace Sys2Proof.Machine

/-- The step of a running block whose schedule names the next agent. -/
theorem step_scheduled {s : State} {t : Turn} {rest : List Turn} (h : stopped s = false) (hs : s.sched = t :: rest) :
    step s = act (actionOf t { s with sched := rest }) { s with sched := rest } := by
  obtain ⟨hf, hr⟩ := stopped_eq_false h
  simp [step, hf, hr, takeTurn_cons hs]

/-- Every instruction answers a next state (log 3). -/
theorem exec_next (i : Instr) (s : State) : ∃ t, exec i s = .next t := by
  cases i with
  | infoResponse dir => cases dir <;> exact ⟨_, rfl⟩
  | _ => exact ⟨_, rfl⟩

/-- So does every action. -/
theorem act_next (a : Action) (s : State) : ∃ t, act a s = .next t := by
  cases a with
  | perform i => exact exec_next i s
  | _ => exact ⟨_, rfl⟩

/-- What a step to a next state can be: the block was running, and some agent acted in the state with its turn used up. -/
theorem step_next {s t : State} (h : step s = .next t) :
    stopped s = false ∧ ∃ turn sched draws,
      act (actionOf turn { s with sched := sched, draws := draws }) { s with sched := sched, draws := draws } = .next t := by
  simp only [step] at h
  split at h
  · cases h
  · split at h
    · cases h
    · rename_i hf _ hr
      obtain ⟨sched, draws, hu⟩ := takeTurn_frame s
      exact ⟨by simp [stopped, hf, hr], (takeTurn s).1, sched, draws, by rw [← hu]; exact h⟩

/-- What the agent that acts in `u` can do: it waits, or one of its operations takes the state to `t`. -/
inductive StepCase (u t : State) : Prop where
  | wait (h : t = u)
  | framerInit (hp : u.frPhase = .init) (h : t = framerInit u)
  | deliver (h : deliver? u = some t)
  | complete (h : transferComplete? u = some t)
  | renderTick (h : renderTick? u = some t)
  | pop (hp : u.aPhase = .drain) (h : pop? u = some t)
  | dispatch (hp : u.aPhase = .drain) (h : dispatch? u = some t)
  | drained (hp : u.aPhase = .drain) (hm : u.aMsg = none) (hq : u.q = []) (h : t = endDrain u)
  | render (h : render? u = some t)
  | getSlot (h : getSlot? u = some t)
  | resume (h : resumeB? u = some t)
  | scanlineRead (h : scanlineRead? u = some t)
  | submit (h : submit? u = some t)
  | hostSend (b : Byte) (h : t = hostSend b u)
  | hostTake (h : t = hostTake u)
  | hostLose (i : Nat) (h : t = hostLose i u)

/-- An operation that waits or steps, as a case of the step. -/
theorem StepCase.ofWait {u t : State} {o : Option State} (h : stepOrWait u o = .next t)
    (f : o = some t → StepCase u t) : StepCase u t := by
  rcases stepOrWait_next h with h | ⟨_, h⟩
  · exact f h
  · exact .wait h

/-- Every step to a next state is one of these cases, in the state with the turn used up (R174). -/
theorem step_cases {s t : State} (h : step s = .next t) :
    stopped s = false ∧ ∃ sched draws, StepCase { s with sched := sched, draws := draws } t := by
  obtain ⟨hs, turn, sched, draws, ha⟩ := step_next h
  refine ⟨hs, sched, draws, ?_⟩
  generalize ({ s with sched := sched, draws := draws } : State) = u at ha
  cases turn with
  | hostSend b => exact .hostSend b (by cases ha; rfl)
  | hostTake => exact .hostTake (by cases ha; rfl)
  | hostLose i =>
    simp only [actionOf] at ha
    split at ha
    · exact .hostLose i (by cases ha; rfl)
    · exact .wait (by cases ha; rfl)
  | framer =>
    simp only [actionOf, framerAction] at ha
    split at ha
    · exact .framerInit ‹_› (by cases ha; rfl)
    · split at ha
      · exact .wait (by cases ha; rfl)
      · split at ha
        · exact .ofWait ha .complete
        · split at ha
          · exact .ofWait ha .deliver
          · exact .wait (by cases ha; rfl)
  | ctxA =>
    simp only [actionOf, ctxAAction] at ha
    split at ha
    · split at ha
      · exact .ofWait ha .renderTick
      · exact .wait (by cases ha; rfl)
    · rename_i hp
      split at ha
      · exact .ofWait ha (.dispatch hp)
      · rename_i hm
        split at ha
        · exact .ofWait ha (.pop hp)
        · rename_i hq
          exact .drained hp (by simpa using hm) (by simpa using hq) (by cases ha; rfl)
    · exact .ofWait ha .render
  | ctxB =>
    simp only [actionOf, ctxBAction] at ha
    split at ha
    · exact .ofWait ha .getSlot
    · split at ha
      · exact .ofWait ha .resume
      · exact .wait (by cases ha; rfl)
    · exact .ofWait ha .scanlineRead
    · exact .ofWait ha .submit

end Sys2Proof.Machine
end

