-- ==== Sys2Proof/Tests/Slice0.lean ====
section
/-! SUPPORT. Tests on fixed values: ill-formed terms, the packets of spec/95_test_vectors.md, its vectors instruction by
instruction, and, for each obligation with hypotheses, a state and operands that meet them (test_meets_...). -/

namespace Sys2Proof.Tests

open Sys2Proof Sys2Proof.Machine Sys2Proof.Safety

-- One theorem at a time: the kernel evaluations in parallel need a thread each.
set_option Elab.async false

/-! ### Ill-formed terms -/

/-- R109, R59: an unknown id is no command's, and its payload has at most 32 bytes. -/
theorem test_wf_unknown_id :
    Instr.wellFormed Wire.spec (.unknownId 0x02#8 []) = false ∧ Instr.wellFormed Wire.spec (.unknownId 0x0C#8 []) = false ∧
    Instr.wellFormed Wire.spec (.unknownId 0x0D#8 (List.replicate 33 0#8)) = false ∧
    Instr.wellFormed Wire.spec (.unknownId 0x0D#8 (List.replicate 32 0#8)) = true := by decide

/-- R83, R20: an armed length is from 1 to the buffer's. -/
theorem test_wf_arm :
    Instr.wellFormed Wire.spec (.arm .tok 0) = false ∧ Instr.wellFormed Wire.spec (.arm .tok 2) = false ∧
    Instr.wellFormed Wire.spec (.arm .hdr 3) = false ∧ Instr.wellFormed Wire.spec (.arm .crc 3) = false ∧
    Instr.wellFormed Wire.spec (.arm .pay 33) = false ∧ Instr.wellFormed Wire.spec (.arm .pay 32) = true := by decide

/-- R105: id 0xFF has no handler slot. -/
theorem test_wf_register :
    Instr.wellFormed Wire.spec (.register 0xFF#8 .setPixel) = false ∧
    Instr.wellFormed Wire.spec (.register 0xFE#8 .setPixel) = true := by decide

/-- R62: an id map is injective and does not use 0xFF. -/
theorem test_wf_id_map :
    IdMap.table.legal = true ∧ ({ IdMap.table with setPixel := 0x01#8 } : IdMap).legal = false ∧
    ({ IdMap.table with infoResponse := 0xFF#8 } : IdMap).legal = false := by decide

/-! ### Packets (section 2.2 of the test vectors) -/

/-- What a packet to the block decodes to, and the packet the instruction encodes to. -/
def isPacketOf (i : Instr) (bs : List Byte) : Bool :=
  (match decode Wire.spec i.direction (fun _ => 0#8) bs with
    | .ok (j, rest) => j == i && rest == []
    | .error _ => false) && encode Wire.spec i == some bs

/-- E6: MODE_CHANGE 1, 16, 8, 8, 0, 0. -/
theorem test_packet_modeChange : isPacketOf (.modeChange 1#8 16#16 8#16 8#8 0#8 0#8)
    [0x7E#8, 0x01#8, 0x08#8, 0x39#8, 0xB2#8, 0x01#8, 0x10#8, 0x00#8, 0x08#8, 0x00#8, 0x08#8, 0x00#8, 0x00#8, 0x24#8,
     0xDB#8] = true := by decide +kernel

/-- E1: SET_PIXEL 3, 4, 255. -/
theorem test_packet_setPixel : isPacketOf (.setPixel 3#16 4#16 255#16)
    [0x7E#8, 0x02#8, 0x06#8, 0xA4#8, 0x06#8, 0x03#8, 0x00#8, 0x04#8, 0x00#8, 0xFF#8, 0x00#8, 0xEE#8, 0x07#8] = true := by
  decide +kernel

/-- E10: DRAW_LINE 0, 0, 3, 1, 7. -/
theorem test_packet_drawLine : isPacketOf (.drawLine 0#16 0#16 3#16 1#16 7#16)
    [0x7E#8, 0x03#8, 0x0A#8, 0x19#8, 0xF4#8, 0x00#8, 0x00#8, 0x00#8, 0x00#8, 0x03#8, 0x00#8, 0x01#8, 0x00#8, 0x07#8,
     0x00#8, 0xC3#8, 0x21#8] = true := by decide +kernel

/-- E8: DRAW_TRIANGLE 1, 5, 9, 9, 9, 1, 1. -/
theorem test_packet_drawTriangle : isPacketOf (.drawTriangle 1#16 5#16 9#16 9#16 9#16 1#16 1#16)
    [0x7E#8, 0x04#8, 0x0E#8, 0x0A#8, 0x2D#8, 0x01#8, 0x00#8, 0x05#8, 0x00#8, 0x09#8, 0x00#8, 0x09#8, 0x00#8, 0x09#8,
     0x00#8, 0x01#8, 0x00#8, 0x01#8, 0x00#8, 0xA0#8, 0x04#8] = true := by decide +kernel

/-- Program P1's CLEAR_SCREEN 1. -/
theorem test_packet_clearScreen : isPacketOf (.clearScreen 1#16)
    [0x7E#8, 0x05#8, 0x02#8, 0xB7#8, 0xDF#8, 0x01#8, 0x00#8, 0x31#8, 0x33#8] = true := by decide +kernel

/-- E2 to E5: the four commands without operands. -/
theorem test_packet_no_operands :
    isPacketOf .swapBuffer [0x7E#8, 0x06#8, 0x00#8, 0xA6#8, 0xAA#8] = true ∧
    isPacketOf .beginPrimitives [0x7E#8, 0x07#8, 0x00#8, 0x97#8, 0x99#8] = true ∧
    isPacketOf .endPrimitives [0x7E#8, 0x08#8, 0x00#8, 0xA9#8, 0x89#8] = true ∧
    isPacketOf .infoRequest [0x7E#8, 0x0B#8, 0x00#8, 0xFA#8, 0xDC#8] = true := by decide +kernel

/-- E14: WRITE_VERTEX -1, 1, 0, 5. -/
theorem test_packet_writeVertex : isPacketOf (.writeVertex 0xBF800000#32 0x3F800000#32 0#32 5#16)
    [0x7E#8, 0x09#8, 0x0E#8, 0x56#8, 0x5B#8, 0x00#8, 0x00#8, 0x80#8, 0xBF#8, 0x00#8, 0x00#8, 0x80#8, 0x3F#8, 0x00#8,
     0x00#8, 0x00#8, 0x00#8, 0x05#8, 0x00#8, 0x6F#8, 0x86#8] = true := by decide +kernel

/-- E11: SET_PERSPECTIVE 1.5707964, 1.0, 1.0, 3.0. -/
theorem test_packet_setPerspective :
    isPacketOf (.setPerspective 0x3FC90FDB#32 0x3F800000#32 0x3F800000#32 0x40400000#32)
      [0x7E#8, 0x0A#8, 0x10#8, 0xFA#8, 0xFD#8, 0xDB#8, 0x0F#8, 0xC9#8, 0x3F#8, 0x00#8, 0x00#8, 0x80#8, 0x3F#8, 0x00#8,
       0x00#8, 0x80#8, 0x3F#8, 0x00#8, 0x00#8, 0x40#8, 0x40#8, 0x51#8, 0x67#8] = true := by decide +kernel

/-- E19: the INFO_RESPONSE of Graphic2D 16×8×8 with ids (1, 0). -/
theorem test_packet_infoResponse : isPacketOf (.infoResponse .toHost 1#8 16#16 8#16 8#8 1#8 0#8)
    [0x7E#8, 0x0C#8, 0x08#8, 0x65#8, 0xC4#8, 0x01#8, 0x10#8, 0x00#8, 0x08#8, 0x00#8, 0x08#8, 0x01#8, 0x00#8, 0x15#8,
     0xE8#8] = true := by decide +kernel

/-- E15, E16, F11: unknown ids, without and with a payload. -/
theorem test_packet_unknownId :
    isPacketOf (.unknownId 0x00#8 []) [0x7E#8, 0x00#8, 0x00#8, 0x00#8, 0x00#8] = true ∧
    isPacketOf (.unknownId 0xFF#8 []) [0x7E#8, 0xFF#8, 0x00#8, 0xFF#8, 0x03#8] = true ∧
    isPacketOf (.unknownId 0x0D#8 [0x7E#8, 0x06#8, 0x00#8, 0xA6#8, 0xAA#8])
      [0x7E#8, 0x0D#8, 0x05#8, 0xF9#8, 0x26#8, 0x7E#8, 0x06#8, 0x00#8, 0xA6#8, 0xAA#8, 0xCF#8, 0x56#8] = true := by
  decide +kernel

/-- The name a packet to the block is refused by. -/
def refusal (bs : List Byte) : Option DecodeError :=
  match decode Wire.spec .toBlock (fun _ => 0#8) bs with
  | .ok _ => none
  | .error e => some e

/-- E20, F2, F4, F13: an oversize header, a corrupted header, a corrupted payload and a packet cut short. -/
theorem test_decode_refuses :
    refusal [0x7E#8, 0x01#8, 0x21#8, 0x72#8, 0x07#8] = some .oversize ∧
    refusal [0x7E#8, 0x02#8, 0x06#8, 0xA5#8, 0x06#8, 0x03#8, 0x00#8, 0x04#8, 0x00#8, 0xFF#8, 0x00#8, 0xEE#8, 0x07#8]
      = some .badHeaderCrc ∧
    refusal [0x7E#8, 0x02#8, 0x06#8, 0xA4#8, 0x06#8, 0x03#8, 0x00#8, 0x04#8, 0x00#8, 0xFF#8, 0x00#8, 0xEF#8, 0x07#8]
      = some .badPayloadCrc ∧
    refusal [0x7E#8, 0x02#8, 0x06#8, 0xA4#8, 0x06#8, 0x03#8, 0x00#8, 0x04#8] = some .truncated := by decide +kernel

/-- The table's words (token and id, big-endian): the row's instruction. -/
theorem test_table_words :
    decodeTableWord 16 0x7E02 = some (.setPixel 0#16 0#16 0#16) ∧ decodeTableWord 16 0x7E06 = some .swapBuffer ∧
    decodeTableWord 16 0x7E00 = some (.unknownId 0x00#8 []) ∧
    decodeTableWord 16 0x7E0C = some (.infoResponse .toBlock 0#8 0#16 0#16 0#8 0#8 0#8) ∧
    decodeTableWord 16 0x7F02 = none := by decide +kernel

/-! ### Helpers -/

/-- The outcome is a next state that passes a test. -/
def gives (o : Host.Outcome State Fault Refusal) (p : State → Bool) : Bool :=
  match o with
  | .next t => p t
  | .fault _ => false
  | .refused _ => false

/-- The reset state of the default configuration. -/
def base : State := State.reset

/-- A Graphic3D mode of 16×16 with a mesh. -/
def in3D (mesh : List Vertex3) (st : MeshState) : State :=
  { base with mode := .graphic3D ⟨16#16, 16#16, .d8, false⟩ ⟨Mat4.identity, mesh, st, 0#32⟩ }

/-- The screen of the default configuration. -/
def screen : Screen := ⟨16#16, 8#16, .d8, false⟩

/-- A Text mode (D10). -/
def inText : State := { base with mode := .text 40#16 25#16 2#8 }

/-- A popped message with A in its drain. -/
def popped (id : Byte) (payload : List Byte) : State :=
  { base with
    aPhase := .drain, sched := [.ctxA]
    aMsg := some { id := id, size := BitVec.ofNat 8 payload.length
                   payload := payload.map some ++ List.replicate (32 - payload.length) none, received := true } }

/-- A table word runs as the first instruction after reset. -/
theorem test_step_table_word :
    gives (step (State.reset.withFetchWord 16 0x7E06)) (fun t => t.readId == .one && t.writeId == .zero) = true ∧
    gives (step (State.reset.withFetchWord 16 0x7E00)) (fun t => t.log == [.unknownId 0x00#8]) = true := by
  decide +kernel

/-! ### The commands (section 2.4) -/

/-- D6: depth 3 is not valid; D8: E6 after E1. -/
theorem test_modeChange :
    gives (exec (.modeChange 1#8 16#16 8#16 3#8 0#8 0#8) base)
      (fun t => t.log == [.invalidMode] && t.mode == base.mode) = true ∧
    gives (exec (.modeChange 1#8 16#16 8#16 8#8 0#8 0#8) { base with prims := [.span ⟨4#16, 3, 3, 255#16⟩] })
      (fun t => t.prims == [] && t.mode == .graphic2D screen && t.lock == .free) = true := by decide +kernel

/-- D7: `8*16 = 128` does not fit below a plane offset of 100. -/
theorem test_modeChange_planes :
    gives (exec (.modeChange 1#8 16#16 8#16 8#8 0#8 0#8) { base with params := { Params.vectors with planeOffset := 100 } })
      (fun t => t.log == [.invalidMode]) = true := by decide +kernel

/-- D1. -/
theorem test_setPixel :
    gives (exec (.setPixel 3#16 4#16 255#16) base) (fun t => t.prims == [.span ⟨4#16, 3, 3, 255#16⟩]) = true := by
  decide +kernel

/-- D12, D13: the two directions of a line are not the same pixels. -/
theorem test_drawLine :
    gives (exec (.drawLine 0#16 0#16 3#16 1#16 7#16) base) (fun t => t.prims ==
      [.span ⟨0#16, 0, 0, 7#16⟩, .span ⟨0#16, 1, 1, 7#16⟩, .span ⟨1#16, 2, 2, 7#16⟩, .span ⟨1#16, 3, 3, 7#16⟩]) = true ∧
    gives (exec (.drawLine 3#16 1#16 0#16 0#16 7#16) base) (fun t => t.prims ==
      [.span ⟨1#16, 3, 3, 7#16⟩, .span ⟨1#16, 2, 2, 7#16⟩, .span ⟨0#16, 1, 1, 7#16⟩, .span ⟨0#16, 0, 0, 7#16⟩]) = true := by
  decide +kernel

/-- L4, L7, L8. -/
theorem test_bresenham :
    bresenham 0 0 1 3 = [⟨0, 0⟩, ⟨0, 1⟩, ⟨1, 2⟩, ⟨1, 3⟩] ∧ bresenham 0 3 3 0 = [⟨0, 3⟩, ⟨1, 2⟩, ⟨2, 1⟩, ⟨3, 0⟩] ∧
    bresenham 8 0 11 2 = [⟨8, 0⟩, ⟨9, 1⟩, ⟨10, 1⟩, ⟨11, 2⟩] := by decide +kernel

/-- T1: the golden triangle's prepared fields; -2.0, 0.0, 2.0 and 9.0 as binary32. -/
theorem test_drawTriangle :
    gives (exec (.drawTriangle 1#16 5#16 9#16 9#16 9#16 1#16 1#16) base) (fun t => t.prims ==
      [.tri ⟨0xC0000000#32, 0x00000000#32, 0x40000000#32, 0x41100000#32, 0x41100000#32, 1#16, 5#16, 9#16, false, 1#16⟩])
      = true := by decide +kernel

/-- D14. -/
theorem test_clearScreen :
    gives (exec (.clearScreen 0x0123#16) { base with prims := [.span ⟨4#16, 3, 3, 255#16⟩] })
      (fun t => t.prims == [] && t.clearColor == 0x0123#16) = true := by decide +kernel

/-- D11; and B's hold of the lock keeps it waiting (R51). -/
theorem test_swapBuffer :
    gives (exec .swapBuffer base) (fun t => t.readId == .one && t.writeId == .zero && t.ext == []) = true ∧
    gives (exec .swapBuffer { base with lock := .held .b }) (fun t => t.readId == .zero && t.lock == .held .b) = true := by
  decide +kernel

/-- D5. -/
theorem test_beginPrimitives :
    gives (exec .beginPrimitives base) (fun t => t.log == [.wrongMode 0x07#8] && t.mode == base.mode) = true := by
  decide +kernel

/-- D15. -/
theorem test_endPrimitives :
    gives (exec .endPrimitives (in3D [] .idle)) (fun t => t.log == [.meshNotOpen]) = true := by decide +kernel

/-- D16. -/
theorem test_writeVertex :
    gives (exec (.writeVertex 0#32 0#32 0#32 5#16) (in3D [] .closed))
      (fun t => t.log == [.meshNotOpen] && t.mode == (in3D [] .closed).mode) = true := by decide +kernel

/-- D18 and G2: the rows (1,0,0,0), (0,1,0,0), (0,0,-2,-3), (0,0,-1,0). -/
theorem test_setPerspective :
    perspective 0x3FC90FDB#32 0x3F800000#32 0x3F800000#32 0x40400000#32 =
      ⟨⟨0x3F800000#32, 0#32, 0#32, 0#32⟩, ⟨0#32, 0x3F800000#32, 0#32, 0#32⟩,
       ⟨0#32, 0#32, 0xC0000000#32, 0xC0400000#32⟩, ⟨0#32, 0#32, 0xBF800000#32, 0#32⟩⟩ := by decide +kernel

/-- D19: 0.91524386, 1.8304877, -1.1052631, -1.0526316, with tan32(0.5) = 0.54630249. -/
theorem test_setPerspective_D19 :
    tan32 0x3F000000#32 = 0x3F0BDA7B#32 ∧
    (perspective 0x3F800000#32 0x40000000#32 0x3F000000#32 0x41200000#32).r0.x = 0x3F6A4D6C#32 ∧
    (perspective 0x3F800000#32 0x40000000#32 0x3F000000#32 0x41200000#32).r1.y = 0x3FEA4D6C#32 := by decide +kernel

/-- D9: the bytes of E18. -/
theorem test_infoRequest :
    gives (exec .infoRequest base) (fun t => t.tx ==
      [0x7E#8, 0x0C#8, 0x08#8, 0x65#8, 0xC4#8, 0x01#8, 0x10#8, 0x00#8, 0x08#8, 0x00#8, 0x08#8, 0x00#8, 0x01#8, 0x05#8,
       0xCB#8]) = true := by decide +kernel

/-- D10: the payload of the answer in Text 40×25. -/
theorem test_infoRequest_text :
    gives (exec .infoRequest inText) (fun t =>
      (t.tx.drop 5).take 8 == [0x00#8, 0x28#8, 0x00#8, 0x19#8, 0x00#8, 0x00#8, 0x00#8, 0x01#8]) = true := by
  decide +kernel

/-- D4; and the packet the block sends. -/
theorem test_infoResponse :
    gives (exec (.infoResponse .toBlock 1#8 16#16 8#16 8#8 0#8 1#8) base)
      (fun t => t.log == [.unknownId 0x0C#8] && t.tx == []) = true ∧
    gives (exec (.infoResponse .toHost 1#8 16#16 8#16 8#8 1#8 0#8) base) (fun t => t.tx.drop 11 ==
      [0x01#8, 0x00#8, 0x15#8, 0xE8#8] && t.log == []) = true := by decide +kernel

/-- D2, D3. -/
theorem test_unknownId :
    gives (exec (.unknownId 0x00#8 []) base) (fun t => t.log == [.unknownId 0x00#8] && t.fault == none) = true ∧
    gives (exec (.unknownId 0xFF#8 []) base) (fun t => t.log == [.unknownId 0xFF#8]) = true := by decide +kernel

/-! ### The CRC unit, the framer and the queue (sections 2.1 and 2.3) -/

/-- C1, C4, C7, C8 in both bit orders. -/
theorem test_crc16 :
    crc16 false [0x31#8, 0x32#8, 0x33#8, 0x34#8, 0x35#8, 0x36#8, 0x37#8, 0x38#8, 0x39#8] = 0x31C3#16 ∧
    crc16 true [0x31#8, 0x32#8, 0x33#8, 0x34#8, 0x35#8, 0x36#8, 0x37#8, 0x38#8, 0x39#8] = 0x2189#16 ∧
    crc16 false [0x02#8, 0x06#8] = 0x06A4#16 ∧
    crc16 false [0x03#8, 0x00#8, 0x04#8, 0x00#8, 0xFF#8, 0x00#8] = 0x07EE#16 := by decide +kernel

/-- C4. -/
theorem test_crcStep :
    gives (exec (.crcStep 0x01#8) base) (fun t => t.crcAcc == 0x1021#16) = true ∧
    gives (exec (.crcStep 0x01#8) { base with params := { Params.vectors with wire := ⟨true, IdMap.table⟩ } })
      (fun t => t.crcAcc == 0x1189#16) = true := by decide +kernel

/-- R79, R80. -/
theorem test_crcReset_crcRead :
    gives (exec .crcReset { base with crcAcc := 0x9F59#16 }) (fun t => t.crcAcc == 0x0000#16) = true ∧
    gives (exec .crcRead { base with crcAcc := 0x9F59#16 })
      (fun t => t.ret == .crcValue 0x9F59#16 && t.crcAcc == 0x9F59#16) = true := by decide +kernel

/-- C9, C10. -/
theorem test_crcCheck :
    gives (exec .crcCheck { base with frExpected := 0x06A4#16, frCrc0 := 0xA4#8, frCrc1 := 0x06#8 })
      (fun t => t.ret == .guard true) = true ∧
    gives (exec .crcCheck { base with frExpected := 0x06A4#16, frCrc0 := 0x06#8, frCrc1 := 0xA4#8 })
      (fun t => t.ret == .guard false) = true := by decide +kernel

/-- R83. -/
theorem test_arm :
    gives (exec (.arm .crc 2) { base with frFilled := 1 })
      (fun t => t.frArmed == some (.crc, 2) && t.frFilled == 0) = true := by decide +kernel

/-- A framer with the given block armed and filled. -/
def framing (phase : FramerPhase) (t : Target) (n filled : Nat) (slot : Option InFlight) : State :=
  { base with frPhase := phase, frArmed := some (t, n), frFilled := filled, frSlot := slot }

/-- An in-flight slot with its header, and with the payload of E1. -/
def slotE1 : InFlight :=
  { id := some 0x02#8, size := some 0x06#8, discard := false
    payload := [0x03#8, 0x00#8, 0x04#8, 0x00#8, 0xFF#8, 0x00#8].map some ++ List.replicate 26 none }

/-- C5: the token byte goes into its buffer and into the accumulator; without a byte nothing happens. -/
theorem test_deliver :
    gives (exec .deliver { framing .awaitToken .tok 1 0 none with rx := [0x7E#8, 0x02#8] })
      (fun t => t.frTok == 0x7E#8 && t.rx == [0x02#8] && t.frFilled == 1 && t.crcAcc == 0x9F59#16) = true ∧
    gives (exec .deliver (framing .awaitToken .tok 1 0 none)) (fun t => t.frFilled == 0) = true := by decide +kernel

/-- F7: a header with size 33 and a good CRC is dropped. -/
theorem test_transferComplete_oversize :
    gives (exec .transferComplete
        { framing .awaitHeaderCrc .crc 2 2
            (some { id := some 0x01#8, size := some 0x21#8, payload := List.replicate 32 none, discard := false }) with
          frExpected := 0x0772#16, frCrc0 := 0x72#8, frCrc1 := 0x07#8 })
      (fun t => t.q == [] && t.frSlot == none && t.frPhase == .awaitToken && t.frArmed == some (.tok, 1)) = true := by
  decide +kernel

/-- F1: the message of E1 is stored once its payload CRC matches. -/
theorem test_transferComplete_store :
    gives (exec .transferComplete
        { framing .awaitPayloadCrc .crc 2 2 (some slotE1) with
          frExpected := 0x07EE#16, frCrc0 := 0xEE#8, frCrc1 := 0x07#8 })
      (fun t => t.q == [⟨0x02#8, 0x06#8, slotE1.payload, true⟩] && t.frPhase == .awaitToken) = true := by decide +kernel

/-- A message without a payload. -/
def bare (id : Byte) : Message := ⟨id, 0x00#8, List.replicate 32 none, true⟩

/-- F15, F16: with 32 messages waiting the slot is a scratch slot, with 31 it is not. -/
theorem test_allocSlot :
    gives (exec .allocSlot { base with q := List.replicate 32 (bare 0x06#8) })
      (fun t => t.frSlot.map InFlight.discard == some true) = true ∧
    gives (exec .allocSlot { base with q := List.replicate 31 (bare 0x06#8) })
      (fun t => t.frSlot.map InFlight.discard == some false) = true := by decide +kernel

/-- F15: a scratch slot is not stored; F1: a real one is. -/
theorem test_store :
    gives (exec .store { base with frSlot := some { slotE1 with discard := true } })
      (fun t => t.q == [] && t.frSlot == none) = true ∧
    gives (exec .store { base with frSlot := some slotE1 })
      (fun t => t.q == [⟨0x02#8, 0x06#8, slotE1.payload, true⟩] && t.frSlot == none) = true := by decide +kernel

/-- R100. -/
theorem test_drop :
    gives (exec .drop { base with frSlot := some slotE1 }) (fun t => t.q == [] && t.frSlot == none) = true := by
  decide +kernel

/-- F17. -/
theorem test_pop :
    gives (exec .pop { base with q := [bare 0x06#8, bare 0x07#8] })
      (fun t => t.aMsg == some (bare 0x06#8) && t.q == [bare 0x07#8]) = true := by decide +kernel

/-- R105: a handler for a new id; 0xFF is refused, and the block has no step afterwards (R171). -/
theorem test_register :
    gives (exec (.register 0xFE#8 .swapBuffer) base)
      (fun t => handlerOf t 0xFE#8 == some .swapBuffer && handlerOf t 0x02#8 == some .setPixel) = true ∧
    gives (exec (.register 0xFF#8 .swapBuffer) base) (fun t => t.refused == some .noHandlerSlot && stopped t) = true := by
  decide +kernel

/-- S8: a registered id runs its handler once, with the fields of the payload; D2: an unregistered one is logged. -/
theorem test_dispatch :
    gives (step (popped 0x02#8 [0x03#8, 0x00#8, 0x04#8, 0x00#8, 0xFF#8, 0x00#8]))
      (fun t => t.prims == [.span ⟨4#16, 3, 3, 255#16⟩] && t.aMsg == none) = true ∧
    gives (step (popped 0x00#8 [])) (fun t => t.log == [.unknownId 0x00#8] && t.prims == [] && t.fault == none) = true := by
  decide +kernel

/-- D17: `SET_PIXEL 3, draw(), draw()`; the operand that was sent is read. -/
theorem test_dispatch_stale :
    gives (step (popped 0x02#8 [0x03#8, 0x00#8]))
      (fun t => match t.prims with | [.span p] => p.x0 == 3 && p.x1 == 3 | _ => false) = true := by decide +kernel

/-! ### The rasterizer and the 3D pipeline (sections 2.5 and 2.6) -/

/-- T2, T4: a flat top with the raw Δx, and one row. -/
theorem test_addTriangle :
    prepare ⟨1, 1⟩ ⟨5, 1⟩ ⟨3, 3⟩ 1#16 =
      ⟨0x40800000#32, 0x3F800000#32, 0xBF800000#32, 0x3F800000#32, 0x40A00000#32, 1#16, 1#16, 3#16, true, 1#16⟩ ∧
    (prepare ⟨2, 4⟩ ⟨7, 4⟩ ⟨5, 4⟩ 1#16).longLeft = true ∧ (prepare ⟨2, 4⟩ ⟨7, 4⟩ ⟨5, 4⟩ 1#16).ex = 0x40E00000#32 := by
  decide +kernel

/-- The spans a triangle draws on the lines from `y` on: `xs, xe` by R129. -/
def spansOf : Nat → Nat → Tri → List (Int × Int)
  | 0, _, _ => []
  | n + 1, y, t => (f32RoundAway t.sx, f32RoundAway t.ex) :: spansOf n (y + 1) (t.advance y)

/-- T6 and T9: thirds, and `sx = 0.6` on line 3. -/
theorem test_spans :
    spansOf 7 1 (prepare ⟨1, 1⟩ ⟨8, 4⟩ ⟨1, 7⟩ 1#16) = [(1, 1), (1, 3), (1, 6), (1, 8), (1, 6), (1, 3), (1, 1)] ∧
    spansOf 6 0 (prepare ⟨0, 0⟩ ⟨7, 1⟩ ⟨1, 5⟩ 1#16) = [(0, 0), (0, 7), (0, 6), (1, 4), (1, 3), (1, 1)] := by
  decide +kernel

/-- T10: 2.5, -0.5, -2.5, 1.4999999. -/
theorem test_round :
    f32RoundAway 0x40200000#32 = 3 ∧ f32RoundAway 0xBF000000#32 = -1 ∧ f32RoundAway 0xC0200000#32 = -3 ∧
    f32RoundAway 0x3FBFFFFF#32 = 1 := by decide +kernel

/-- K1 to K6 and T14. -/
theorem test_pack :
    pack 1 [1#16, 0#16, 1#16, 1#16, 0#16, 0#16, 0#16, 0#16, 1#16] = [0x0D#8, 0x01#8] ∧
    pack 2 [3#16, 2#16, 1#16, 0#16, 1#16] = [0x1B#8, 0x01#8] ∧ pack 4 [1#16, 2#16, 3#16] = [0x21#8, 0x03#8] ∧
    pack 12 [0xABC#16, 0x123#16, 0x456#16] = [0xBC#8, 0x3A#8, 0x12#8, 0x56#8, 0x04#8] ∧
    pack 16 [0x1234#16, 0xABCD#16] = [0x34#8, 0x12#8, 0xCD#8, 0xAB#8] ∧
    pixelValue 4 0x0123#16 = 0x3#16 ∧ pixelValue 12 0xABCD#16 = 0xBCD#16 ∧ pixelValue 8 0x01FF#16 = 0xFF#16 := by
  decide +kernel

/-- Context A in its Render phase. -/
def rendering (prims : List Primitive) : State := { base with aPhase := .render 0, prims := prims, clearColor := 1#16 }

/-- T16: line 7 of the write plane is sixteen bytes 01, and the tick is done. -/
theorem test_render :
    gives (exec .render (rendering [])) (fun t =>
      (List.range 16).all (fun i => extByte t (1112 + i) == 1#8) && t.tickDone && t.aPhase == .idle && t.lock == .free)
      = true := by decide +kernel

/-- T12: a pixel at x = W faults on line 0 before any line is written. R170, R175: the first run out of range in queue order
stops the pass, and several primitives left below the screen are counted. -/
theorem test_render_fault :
    gives (exec .render (rendering [.span ⟨0#16, 16, 16, 1#16⟩])) (fun t =>
      t.fault == some (.pixelOutOfRange 16 0) && t.ext == [] && t.lock == .held .a) = true ∧
    gives (exec .render (rendering [.span ⟨0#16, 3, 3, 1#16⟩, .span ⟨0#16, 15, 17, 2#16⟩, .span ⟨0#16, -1, 0, 3#16⟩]))
      (fun t => t.fault == some (.pixelOutOfRange 16 0) && t.prims.length == 3) = true ∧
    gives (exec .render (rendering [.span ⟨8#16, 3, 3, 1#16⟩, .span ⟨7#16, 3, 3, 1#16⟩, .span ⟨9#16, 3, 3, 1#16⟩]))
      (fun t => t.fault == some (.triangleNotRetired 2)) = true := by decide +kernel

/-- R139: a quarter turn about z; and the rotation with cosine 3/5 and sine 4/5, whose binary32 values are 3F19999A and
3F4CCCCD. -/
theorem test_rotation :
    Quaternion.matrix ⟨1, 0, 0, 1⟩ =
      ⟨⟨0#32, 0xBF800000#32, 0#32⟩, ⟨0x3F800000#32, 0#32, 0#32⟩, ⟨0#32, 0#32, 0x3F800000#32⟩⟩ ∧
    Quaternion.matrix ⟨2, 0, 0, 1⟩ =
      ⟨⟨0x3F19999A#32, 0xBF4CCCCD#32, 0#32⟩, ⟨0x3F4CCCCD#32, 0x3F19999A#32, 0#32⟩, ⟨0#32, 0#32, 0x3F800000#32⟩⟩ := by
  decide +kernel

/-- G3: `P` the identity, `TZ = 2`, vertex (0.5, -0.5, 0): pixel (12, 12). -/
theorem test_toPixel :
    toPixel? Params.vectors ⟨16#16, 16#16, .d8, false⟩ Scene.fresh ⟨0x3F000000#32, 0xBF000000#32, 0#32, 5#16⟩ =
      some ⟨12, 12⟩ := by decide +kernel

/-- A Graphic3D mode with the matrix of G2 and the mesh of R148. -/
def scene148 (st : MeshState) : State :=
  { base with
    mode := .graphic3D ⟨16#16, 16#16, .d8, false⟩
      { proj := ⟨⟨0x3F800000#32, 0#32, 0#32, 0#32⟩, ⟨0#32, 0x3F800000#32, 0#32, 0#32⟩,
                 ⟨0#32, 0#32, 0xC0000000#32, 0xC0400000#32⟩, ⟨0#32, 0#32, 0xBF800000#32, 0#32⟩⟩
        mesh := [⟨0#32, 0#32, 0#32, 5#16⟩, ⟨0x3F800000#32, 0x3F800000#32, 0#32, 5#16⟩,
                 ⟨0xBF800000#32, 0x3F800000#32, 0#32, 5#16⟩]
        meshState := st, angle := 0#32 } }

/-- G1: the triangle (8,8), (12,4), (4,4); G7: an open mesh is left alone. -/
theorem test_flatten :
    gives (exec .flatten (scene148 .closed))
      (fun t => t.prims == [.tri (prepare ⟨8, 8⟩ ⟨12, 4⟩ ⟨4, 4⟩ 5#16)]) = true ∧
    gives (exec .flatten (scene148 .open_)) (fun t => t.prims == [] && t.mode == (scene148 .open_).mode) = true := by
  decide +kernel

/-! ### The FrameStore and the scanlines (sections 2.7 and 2.8) -/

/-- M1, M2, M5, M6, M11. -/
theorem test_segments :
    segments 1000 100 = [(1000, 24), (1024, 76)] ∧ segments 1023 1026 = [(1023, 1), (1024, 1024), (2048, 1)] ∧
    segments 0 0 = [] ∧ segments 1024 1024 = [(1024, 1024)] ∧
    stride 16 8 = 16 ∧ stride 3 12 = 5 ∧ stride 10 1 = 2 ∧ stride 320 16 = 640 := by decide +kernel

/-- Sixteen bytes of data. -/
def data16 : List Byte := (List.range 16).map (BitVec.ofNat 8)

/-- M8, M10: line 1 of plane 1 is at 1016 and straddles the page at 1024. -/
theorem test_writeLine :
    gives (exec (.writeLine 1 data16) base) (fun t =>
      (List.range 16).all (fun i => extByte t (1016 + i) == BitVec.ofNat 8 i) && t.ext.length == 16 && t.bus == .free)
      = true := by decide +kernel

/-- R152, R45: the second segment, at 2048, is past the end; the first one's bytes stay written. -/
theorem test_writeLine_fault :
    gives (exec (.writeLine 65 data16) base)
      (fun t => t.fault == some (.extMemRange 2048) && t.ext == (putBytes 2040 (data16.take 8) [])) = true := by
  decide +kernel

/-- M10: the bytes come back from the read plane. -/
theorem test_readLine :
    gives (exec (.readLine 1 16) { base with readId := .one, writeId := .zero, ext := putBytes 1016 data16 [] })
      (fun t => t.ret == .bytes data16 && t.bus == .free) = true := by decide +kernel

/-- M9. -/
theorem test_swap :
    gives (exec .swap base) (fun t => t.readId == .one && t.writeId == .zero && t.ext == []) = true := by decide +kernel

/-- V1; and V2: after the last line the next frame begins. -/
theorem test_getSlot :
    gives (exec .getSlot base) (fun t => t.bSlot == some ⟨0, 0⟩ && t.tickReq && t.bPhase == .waitTick) = true ∧
    gives (exec .getSlot { base with dispNext := ⟨0, 7⟩ })
      (fun t => t.dispNext == ⟨1, 0⟩ && !t.tickReq && t.bPhase == .read) = true := by decide +kernel

/-- Context B about to read for a slot. -/
def reading (slot : Slot) (v : Nat) : State :=
  { base with bPhase := .read, bSlot := some slot, params := { Params.vectors with vScale := v, videoLines := 20 } }

/-- V3: slots 6 and 7 both read line 3 of plane 0; V6: no step while A holds the lock. -/
theorem test_scanlineRead :
    gives (exec .scanlineRead { reading ⟨0, 7⟩ 2 with ext := putBytes 48 data16 [] })
      (fun t => t.bPixels == (List.range 16).map (BitVec.ofNat 16) && t.bPhase == .submit && t.lock == .free) = true ∧
    gives (exec .scanlineRead { reading ⟨0, 6⟩ 2 with lock := .held .a }) (fun t => t.bPhase == .read) = true := by
  decide +kernel

/-- V4: below the image, sixteen drawn pixels. -/
theorem test_scanlineRead_below :
    gives (exec .scanlineRead (reading ⟨0, 17⟩ 2))
      (fun t => t.bPixels.length == 16 && t.bPhase == .submit && t.fault == none) = true := by decide +kernel

/-- V5: a run of the line's pixels and the end of the line, for B's slot. -/
theorem test_submit :
    gives (exec .submit { base with bPhase := .submit, bSlot := some ⟨0, 3⟩, bPixels := [1#16, 2#16] })
      (fun t => match t.video with
        | [(slot, [.rawRun n ps, .endOfLine])] => slot == ⟨0, 3⟩ && n == 2 && ps.length == 2
        | _ => false) = true := by decide +kernel

/-- R180: the palette of the mode B reads under is kept with the line; R163: a pixel goes through it, or through none. -/
theorem test_palette :
    gives (exec .scanlineRead { reading ⟨0, 17⟩ 2 with mode := .graphic2D { screen with palette := true } })
      (fun t => t.bPalette == some .d8) = true ∧
    displayPixel (some .d8) 5#16 = Config.videoPixel (Config.palette .d8 5#16) ∧
    displayPixel none 5#16 = Config.videoPixel 5 := ⟨by decide +kernel, rfl, rfl⟩

/-- R166. -/
theorem test_renderTick :
    gives (exec .renderTick { base with tickReq := true }) (fun t => t.aPhase == .drain && !t.tickReq) = true ∧
    gives (exec .renderTick base) (fun t => t.aPhase == .idle) = true := by decide +kernel

/-- X1: no step after a fault; X2: the framer's first step; R86: with a lossy link a byte of `rx` is lost. -/
theorem test_step :
    step { base with fault := some (.triangleNotRetired 1) } = .fault (.halted (.triangleNotRetired 1)) ∧
    gives (step { base with sched := [.framer] })
      (fun t => t.frPhase == .awaitToken && t.frArmed == some (.tok, 1)) = true ∧
    gives (step { base with
        sched := [.hostLose 1], rx := [1#8, 2#8, 3#8], params := { Params.vectors with lossy := true } })
      (fun t => t.rx == [1#8, 3#8]) = true := by
  refine ⟨rfl, ?_⟩
  decide +kernel

/-! ### Every hypothesis can be met

For each obligation with hypotheses: a concrete state and operands, for each of its clauses, at a boundary value where
there is one. -/

/-- A successful result from what it holds. -/
theorem ok_of_toOption {ε α : Type} {x : Except ε α} {a : α} (h : x.toOption = some a) : x = .ok a := by
  cases x with
  | error e => cases h
  | ok b => cases h; rfl

/-- The payload of E1. -/
def payloadE1 : List Byte := [0x03#8, 0x00#8, 0x04#8, 0x00#8, 0xFF#8, 0x00#8]

theorem test_meets_StepRunsTheDecodedCommand :
    stopped (popped 0x02#8 payloadE1) = false ∧ (popped 0x02#8 payloadE1).sched = .ctxA :: [] ∧
    (popped 0x02#8 payloadE1).aPhase = .drain ∧
    (∃ m, (popped 0x02#8 payloadE1).aMsg = some m ∧ handlerOf (popped 0x02#8 payloadE1) m.id = some .setPixel) ∧
    (popped 0x02#8 payloadE1).lock = .free := ⟨rfl, rfl, rfl, ⟨_, rfl, by decide +kernel⟩, rfl⟩

theorem test_meets_StepRunsTheEncodedPacket :
    stopped (popped 0x02#8 payloadE1) = false ∧ (popped 0x02#8 payloadE1).sched = .ctxA :: [] ∧
    (popped 0x02#8 payloadE1).aPhase = .drain ∧ (popped 0x02#8 payloadE1).lock = .free ∧
    (popped 0x02#8 payloadE1).params.wire.ids.legal = true ∧
    (popped 0x02#8 payloadE1).handlers = bootHandlers (popped 0x02#8 payloadE1).params.wire.ids ∧
    Instr.wellFormed Wire.spec (.setPixel 3#16 4#16 255#16) = true ∧
    Instr.direction (.setPixel 3#16 4#16 255#16) = .toBlock ∧
    encodeMessage Wire.spec (.setPixel 3#16 4#16 255#16) = some (0x02#8, payloadE1) ∧
    ∃ m, (popped 0x02#8 payloadE1).aMsg = some m ∧ m.id = 0x02#8 ∧
      ∀ n, n < payloadE1.length → m.payload[n]? = some payloadE1[n]? :=
  ⟨rfl, rfl, rfl, rfl, by decide, rfl, rfl, rfl, rfl, _, rfl, rfl, by decide +kernel⟩

theorem test_meets_AgentsPerformTheirInstruction :
    (∃ s : State, stopped s = false ∧ s.sched = [.framer] ∧ s.frPhase ≠ .init ∧ s.frArmed = some (.tok, 1) ∧
      s.frFilled = 1) ∧
    (∃ s : State, stopped s = false ∧ s.sched = [.framer] ∧ s.frPhase ≠ .init ∧ s.frArmed = some (.pay, 32) ∧
      s.frFilled < 32 ∧ s.rx ≠ []) ∧
    (∃ s : State, stopped s = false ∧ s.sched = [.ctxA] ∧ s.aPhase = .idle ∧ s.tickReq = true) ∧
    (∃ s : State, stopped s = false ∧ s.sched = [.ctxA] ∧ s.aPhase = .drain ∧ s.aMsg = none ∧ s.q ≠ []) ∧
    (∃ s : State, stopped s = false ∧ s.sched = [.ctxA] ∧ s.aPhase = .drain ∧ s.aMsg ≠ none) ∧
    (∃ s : State, stopped s = false ∧ s.sched = [.ctxA] ∧ s.aPhase = .render 0) ∧
    ∀ p : BPhase, ∃ s : State, stopped s = false ∧ s.sched = [.ctxB] ∧ s.bPhase = p :=
  ⟨⟨{ framing .awaitToken .tok 1 1 none with sched := [.framer] }, rfl, rfl, nofun, rfl, rfl⟩,
   ⟨{ framing .awaitPayload .pay 32 31 none with sched := [.framer], rx := [0#8] }, rfl, rfl, nofun, rfl, by decide, nofun⟩,
   ⟨{ base with sched := [.ctxA], tickReq := true }, rfl, rfl, rfl, rfl⟩,
   ⟨{ base with sched := [.ctxA], aPhase := .drain, q := [bare 0x06#8] }, rfl, rfl, rfl, rfl, nofun⟩,
   ⟨popped 0x06#8 [], rfl, rfl, rfl, nofun⟩, ⟨{ base with sched := [.ctxA], aPhase := .render 0 }, rfl, rfl, rfl⟩,
   fun p => ⟨{ base with sched := [.ctxB], bPhase := p }, rfl, rfl, rfl⟩⟩

theorem test_meets_AgentsOwnSteps :
    (∃ s : State, stopped s = false ∧ s.sched = [.framer] ∧ s.frPhase = .init) ∧
    (∃ s : State, stopped s = false ∧ s.sched = [.ctxA] ∧ s.aPhase = .drain ∧ s.aMsg = none ∧ s.q = []) ∧
    (∃ s : State, stopped s = false ∧ s.sched = [.ctxB] ∧ s.bPhase = .waitTick ∧ s.tickDone = true) ∧
    (∃ s : State, stopped s = false ∧ s.sched = [.hostSend 0x7E#8]) ∧
    (∃ s : State, stopped s = false ∧ s.sched = [.hostTake]) ∧
    ∃ s : State, stopped s = false ∧ s.sched = [.hostLose 0] :=
  ⟨⟨{ base with sched := [.framer] }, rfl, rfl, rfl⟩, ⟨{ base with sched := [.ctxA], aPhase := .drain }, rfl, rfl, rfl, rfl, rfl⟩,
   ⟨{ base with sched := [.ctxB], bPhase := .waitTick, tickDone := true }, rfl, rfl, rfl, rfl⟩,
   ⟨{ base with sched := [.hostSend 0x7E#8] }, rfl, rfl⟩, ⟨{ base with sched := [.hostTake] }, rfl, rfl⟩,
   ⟨{ base with sched := [.hostLose 0] }, rfl, rfl⟩⟩

theorem test_meets_StoppedBlockHasNoStep :
    (∃ s : State, s.fault = some (.extMemRange 2048)) ∧ (∃ s : State, s.fault = none ∧ s.refused = some .textMode) ∧
    stopped base = false :=
  ⟨⟨{ base with fault := some (.extMemRange 2048) }, rfl⟩, ⟨{ base with refused := some .textMode }, rfl, rfl⟩, rfl⟩

theorem test_meets_WaitingChangesNothing :
    (∃ s : State, stopped s = false ∧ s.sched = [.framer] ∧ s.frPhase ≠ .init ∧
      ∀ t n, s.frArmed = some (t, n) → s.frFilled < n ∧ s.rx = []) ∧
    (∃ s : State, stopped s = false ∧ s.sched = [.ctxA] ∧ s.aPhase = .idle ∧ s.tickReq = false) ∧
    (∃ s : State, stopped s = false ∧ s.sched = [.ctxB] ∧ s.bPhase = .waitTick ∧ s.tickDone = false) ∧
    (¬(base.aPhase = .idle ∧ base.tickReq = true) ∧ base.bSlot = none ∧ base.mode.screen? ≠ none) ∧
    (∃ s : State, stopped s = false ∧ s.lock ≠ .free ∧ newMode? s.params 0#8 1#16 1#16 0#8 0#8 0#8 ≠ none ∧
      newMode? s.params 1#8 16#16 8#16 8#8 1#8 0#8 ≠ none ∧ newMode? s.params 2#8 16#16 8#16 1#8 0#8 0#8 ≠ none) ∧
    (∃ s m, stopped s = false ∧ s.lock ≠ .free ∧ s.aMsg = some m ∧ handlerOf s m.id = some .swapBuffer) ∧
    ∃ s m, stopped s = false ∧ s.lock ≠ .free ∧ s.aMsg = some m ∧ handlerOf s m.id = some .modeChange ∧
      instrOf .modeChange (drawnBytes m 8 s) = .modeChange 2#8 16#16 8#16 8#8 0#8 0#8 ∧
      newMode? s.params 2#8 16#16 8#16 8#8 0#8 0#8 ≠ none :=
  ⟨⟨{ framing .awaitToken .tok 1 0 none with sched := [.framer] }, rfl, rfl, nofun, fun _ _ h => by cases h; exact ⟨by decide, rfl⟩⟩,
   ⟨{ base with sched := [.ctxA] }, rfl, rfl, rfl, rfl⟩,
   ⟨{ base with sched := [.ctxB], bPhase := .waitTick }, rfl, rfl, rfl, rfl⟩, ⟨nofun, rfl, nofun⟩,
   ⟨{ base with lock := .held .b }, rfl, nofun, by decide, by decide, by decide⟩,
   ⟨{ popped 0x06#8 [] with lock := .held .b }, _, rfl, nofun, rfl, by decide +kernel⟩,
   ⟨{ popped 0x01#8 [2#8, 16#8, 0#8, 8#8, 0#8, 8#8, 0#8, 0#8] with lock := .held .b }, _, rfl, nofun, rfl,
     by decide +kernel, by decide +kernel, by decide⟩⟩

theorem test_meets_DecodeOfEncode :
    Wire.spec.ids.legal = true ∧ Instr.wellFormed Wire.spec (.unknownId 0x0D#8 (List.replicate 32 0xFF#8)) = true ∧
    (encode Wire.spec (.unknownId 0x0D#8 (List.replicate 32 0xFF#8))).isSome = true ∧
    (encode Wire.spec .swapBuffer).isSome = true := by decide

theorem test_meets_EncodeOfDecode :
    decode Wire.spec .toBlock (fun _ => 0#8) (0x7E#8 :: 0x06#8 :: 0x00#8 :: [0xA6#8, 0xAA#8, 0x55#8])
      = .ok (.swapBuffer, [0x55#8]) ∧ (0x00#8 : Byte).toNat = nominalSize Wire.spec.ids 0x06#8 ∧
    decode Wire.spec .toBlock (fun _ => 0#8)
        (0x7E#8 :: 0x0D#8 :: 0x05#8 :: [0xF9#8, 0x26#8, 0x7E#8, 0x06#8, 0x00#8, 0xA6#8, 0xAA#8, 0xCF#8, 0x56#8])
      = .ok (.unknownId 0x0D#8 [0x7E#8, 0x06#8, 0x00#8, 0xA6#8, 0xAA#8], []) ∧ Wire.spec.ids.lacks 0x0D#8 = true :=
  ⟨ok_of_toOption (by decide +kernel), rfl, ok_of_toOption (by decide +kernel), rfl⟩

theorem test_meets_DecoderRefusesByName :
    (0x7F#8 : Byte) ≠ 0x7E#8 ∧ crc16 false [0x02#8, 0x06#8] ≠ le16 0xA5#8 0x06#8 ∧
    (crc16 false [0x01#8, 0x21#8] = le16 0x72#8 0x07#8 ∧ 32 < (0x21#8 : Byte).toNat) ∧
    crc16 false [0x02#8, 0x06#8] = le16 0xA4#8 0x06#8 ∧ (0x06#8 : Byte).toNat ≤ 32 ∧ (0x06#8 : Byte) ≠ 0#8 ∧
    (List.replicate 7 (0#8 : Byte)).length < (0x06#8 : Byte).toNat + 2 ∧
    (let rest : List Byte := [0x03#8, 0x00#8, 0x04#8, 0x00#8, 0xFF#8, 0x00#8, 0xEE#8, 0x08#8]
     rest[6]? = some 0xEE#8 ∧ rest[7]? = some 0x08#8 ∧ crc16 false (rest.take 6) ≠ le16 0xEE#8 0x08#8) ∧
    ([0x02#8, 0x06#8, 0xA4#8] : List Byte).length < 4 := by decide +kernel

theorem test_meets_CrcDetectsSingleBitErrors : 0 < 8 ∧ 7 < 8 := by decide

theorem test_meets_ArmAndDeliver :
    (∃ s : State, s.rx = [0x7E#8] ∧ s.frFilled < 1 ∧ s.frSlot = none ∧ s.frArmed = some (.tok, 1)) ∧
    (∃ s : State, s.rx = [0x06#8] ∧ s.frFilled < 2 ∧ s.frSlot = some slotE1 ∧ s.frArmed = some (.hdr, 2)) ∧
    (∃ s : State, s.rx = [0x06#8] ∧ s.frFilled < 2 ∧ s.frSlot = some slotE1 ∧ s.frArmed = some (.crc, 2)) ∧
    ∃ s : State, s.rx = [0x06#8] ∧ s.frFilled < 32 ∧ s.frSlot = some slotE1 ∧ s.frArmed = some (.pay, 32) ∧
      s.frFilled < slotE1.payload.length :=
  ⟨⟨{ framing .awaitToken .tok 1 0 none with rx := [0x7E#8] }, rfl, by decide, rfl, rfl⟩,
   ⟨{ framing .awaitHeader .hdr 2 1 (some slotE1) with rx := [0x06#8] }, rfl, by decide, rfl, rfl⟩,
   ⟨{ framing .awaitHeaderCrc .crc 2 1 (some slotE1) with rx := [0x06#8] }, rfl, by decide, rfl, rfl⟩,
   ⟨{ framing .awaitPayload .pay 32 31 (some slotE1) with rx := [0x06#8] }, rfl, by decide, rfl, rfl, by decide⟩⟩

/-- Bytes with no place: the third CRC byte, a header byte with no slot, the 33rd payload byte. -/
theorem test_meets_LinkOperationsFrame_nowhere :
    (∃ s : State, s.rx = [0x06#8] ∧ s.frArmed = some (.crc, 3) ∧ s.frFilled < 3 ∧ 2 ≤ s.frFilled) ∧
    (∃ s : State, s.rx = [0x06#8] ∧ s.frArmed = some (.hdr, 2) ∧ s.frFilled < 2 ∧ s.frSlot = none) ∧
    ∃ s : State, s.rx = [0x06#8] ∧ s.frArmed = some (.pay, 33) ∧ s.frFilled < 33 ∧ s.frSlot = some slotE1 ∧
      slotE1.payload.length ≤ s.frFilled :=
  ⟨⟨{ framing .awaitHeaderCrc .crc 3 2 none with rx := [0x06#8] }, rfl, rfl, by decide, by decide⟩,
   ⟨{ framing .awaitHeader .hdr 2 0 none with rx := [0x06#8] }, rfl, rfl, by decide, rfl⟩,
   ⟨{ framing .awaitPayload .pay 33 32 (some slotE1) with rx := [0x06#8] }, rfl, rfl, by decide, rfl, by decide⟩⟩

theorem test_meets_CompletionArmsTheNextBlock :
    (∃ s : State, s.frArmed = some (.tok, s.frFilled) ∧ s.frPhase = .awaitToken ∧ s.frTok = 0x7E#8) ∧
    (∃ s : State, s.frArmed = some (.tok, s.frFilled) ∧ s.frPhase = .awaitToken ∧ s.frTok ≠ 0x7E#8) ∧
    (∃ s : State, s.frArmed = some (.hdr, s.frFilled) ∧ s.frPhase = .awaitHeader) ∧
    ∃ s : State, s.frArmed = some (.pay, s.frFilled) ∧ s.frPhase = .awaitPayload :=
  ⟨⟨{ framing .awaitToken .tok 1 1 none with frTok := 0x7E#8 }, rfl, rfl, rfl⟩,
   ⟨{ framing .awaitToken .tok 1 1 none with frTok := 0x00#8 }, rfl, rfl, nofun⟩,
   ⟨framing .awaitHeader .hdr 2 2 none, rfl, rfl⟩, ⟨framing .awaitPayload .pay 6 6 (some slotE1), rfl, rfl⟩⟩

theorem test_meets_CompletionChecksTheCrc (phase : FramerPhase) :
    ∃ s : State, s.frArmed = some (.crc, s.frFilled) ∧ s.frSlot = some slotE1 ∧ slotE1.id = some 0x02#8 ∧
      slotE1.size = some 0x06#8 ∧ s.frPhase = phase := ⟨framing phase .crc 2 2 (some slotE1), rfl, rfl, rfl, rfl, rfl⟩

theorem test_meets_SlotOperations :
    ∃ s : State, s.frSlot = some slotE1 ∧ slotE1.id = some 0x02#8 ∧ slotE1.size = some 0x06#8 :=
  ⟨{ base with frSlot := some slotE1 }, rfl, rfl, rfl⟩

/-- A framer that waits for a token, with bytes to come and turns to take them. -/
def receiving (rx : List Byte) (turns : Nat) : State :=
  { framing .awaitToken .tok 1 0 none with rx := rx, sched := List.replicate turns .framer }

theorem test_meets_PayloadPacketIsStoredIffItsCrcMatches (payload : List Byte) (c0 c1 : Byte) (h : payload.length = 1 ∨ payload.length = 32) :
    ∃ s : State, stopped s = false ∧ s.frPhase = .awaitToken ∧ s.frArmed = some (.tok, 1) ∧ s.frFilled = 0 ∧
      s.q.length < 32 ∧ 1 ≤ payload.length ∧ payload.length ≤ 32 ∧
      s.rx = [0x7E#8, 0x02#8, BitVec.ofNat 8 payload.length]
        ++ le16bytes (crc16 s.params.wire.crcReflected [0x02#8, BitVec.ofNat 8 payload.length]) ++ payload ++ [c0, c1] ++ [] ∧
      s.sched = List.replicate (payload.length + 12) .framer ++ [] :=
  ⟨receiving ([0x7E#8, 0x02#8, BitVec.ofNat 8 payload.length]
      ++ le16bytes (crc16 false [0x02#8, BitVec.ofNat 8 payload.length]) ++ payload ++ [c0, c1] ++ []) (payload.length + 12),
    rfl, rfl, rfl, rfl, Nat.succ_pos 31, by omega, by omega, rfl, (List.append_nil _).symm⟩

theorem test_meets_HeaderAloneIsStoredOrDropped :
    (∃ s : State, stopped s = false ∧ s.frPhase = .awaitToken ∧ s.frArmed = some (.tok, 1) ∧ s.frFilled = 0 ∧
      s.q.length < 32 ∧ s.rx = [0x7E#8, 0x06#8, 0x00#8, 0xA6#8, 0xAA#8] ++ [] ∧
      s.sched = List.replicate 8 .framer ++ []) ∧
    (0x00#8 : Byte).toNat = 0 ∧ 32 < (0x21#8 : Byte).toNat ∧ crc16 false [0x02#8, 0x06#8] ≠ le16 0xA5#8 0x06#8 :=
  ⟨⟨receiving [0x7E#8, 0x06#8, 0x00#8, 0xA6#8, 0xAA#8] 8, rfl, rfl, rfl, rfl, by decide, rfl, rfl⟩, by decide +kernel⟩

theorem test_meets_ModeChangeIsAllOrNothing :
    base.lock = .free ∧ (1#16 : Word16) ≠ 0#16 ∧ (0#8 : Byte).toNat = 0 ∧ Depth.ofNat? (8#8 : Byte).toNat = some .d8 ∧
    (let p : Params := { Params.vectors with planeOffset := 128, extMemSize := 256 }
     (8#16 : Word16).toNat * stride (16#16 : Word16).toNat Depth.d8.bits ≤ p.planeOffset ∧
       p.planeOffset + (8#16 : Word16).toNat * stride (16#16 : Word16).toNat Depth.d8.bits ≤ p.extMemSize) ∧
    (1#8 : Byte).toNat = 1 ∧ (2#8 : Byte).toNat = 2 ∧ 2 < (3#8 : Byte).toNat ∧ (3#8 : Byte).toNat ∉ [1, 2, 4, 8, 12, 16] ∧
    127 < (8#16 : Word16).toNat * stride (16#16 : Word16).toNat (8#8 : Byte).toNat ∧
    255 < 128 + (8#16 : Word16).toNat * stride (16#16 : Word16).toNat (8#8 : Byte).toNat := ⟨rfl, by decide⟩

theorem test_meets_DrawingCommands_MeshCommands :
    (∃ g, base.mode.screen? = some g) ∧ inText.mode.screen? = none ∧ (∀ g m, base.mode ≠ .graphic3D g m) ∧
    (∃ g m, (in3D [] .open_).mode = .graphic3D g m ∧ m.meshState = .open_) ∧
    (∃ g m, (in3D [] .closed).mode = .graphic3D g m ∧ m.meshState ≠ .open_) :=
  ⟨⟨screen, rfl⟩, rfl, nofun, ⟨_, _, rfl, rfl⟩, ⟨_, _, rfl, nofun⟩⟩

theorem test_meets_SwapsExchangeTheIds : base.lock = .free ∧ inText.lock = .free := ⟨rfl, rfl⟩

theorem test_meets_RegisterInstallsOneHandler : (0xFE#8 : Byte) ≠ 0xFF#8 ∧ (0x00#8 : Byte) ≠ 0xFE#8 := by decide

theorem test_meets_PopAndDispatch :
    (∃ s : State, s.q = bare 0x06#8 :: []) ∧ base.q = [] ∧
    (∃ m, (popped 0x01#8 []).aMsg = some m ∧ (popped 0x01#8 []).lock = .free ∧
      handlerOf (popped 0x01#8 []) m.id = some .modeChange) ∧
    (∃ m, (popped 0xFF#8 []).aMsg = some m ∧ handlerOf (popped 0xFF#8 []) m.id = none) ∧ base.aMsg = none :=
  ⟨⟨{ base with q := [bare 0x06#8] }, rfl⟩, rfl, ⟨_, rfl, rfl, by decide +kernel⟩, ⟨_, rfl, by decide +kernel⟩, rfl⟩

/-- 2^24 plus 1.0 is a tie between 2^24 and 2^24 + 2; 2^24 + 1 and a product and a quotient with ties likewise. -/
theorem test_meets_ArithmeticRoundsToNearest :
    (f32Finite 0x4B800000#32 = true ∧ f32Finite 0x3F800000#32 = true ∧ f32Finite 0x4B800001#32 = true ∧
      f32Finite (f32Add 0x4B800000#32 0x3F800000#32) = true ∧
      (f32Val (f32Add 0x4B800000#32 0x3F800000#32) - (f32Val 0x4B800000#32 + f32Val 0x3F800000#32)).natAbs =
        (f32Val 0x4B800001#32 - (f32Val 0x4B800000#32 + f32Val 0x3F800000#32)).natAbs) ∧
    (f32Finite (f32Sub 0x4B800000#32 0xBF800000#32) = true ∧
      (f32Val (f32Sub 0x4B800000#32 0xBF800000#32) - (f32Val 0x4B800000#32 - f32Val 0xBF800000#32)).natAbs =
        (f32Val 0x4B800001#32 - (f32Val 0x4B800000#32 - f32Val 0xBF800000#32)).natAbs) ∧
    (f32Finite (f32Mul 0x00000001#32 0x3F000000#32) = true ∧
      (f32Val (f32Mul 0x00000001#32 0x3F000000#32) * 2 ^ 149 - f32Val 0x00000001#32 * f32Val 0x3F000000#32).natAbs =
        (f32Val 0x00000001#32 * 2 ^ 149 - f32Val 0x00000001#32 * f32Val 0x3F000000#32).natAbs) ∧
    (f32Val 0x40000000#32 ≠ 0 ∧ f32Finite (f32Div 0x00000001#32 0x40000000#32) = true ∧
      (f32Val (f32Div 0x00000001#32 0x40000000#32) * f32Val 0x40000000#32 - f32Val 0x00000001#32 * 2 ^ 149).natAbs =
        (f32Val 0x00000001#32 * f32Val 0x40000000#32 - f32Val 0x00000001#32 * 2 ^ 149).natAbs) ∧
    f32Finite (f32OfInt 16777217) = true ∧
      (f32Val (f32OfInt 16777217) - 16777217 * 2 ^ 149).natAbs = (f32Val 0x4B800001#32 - 16777217 * 2 ^ 149).natAbs := by
  decide +kernel

/-- The bounds of overflow, reached exactly where they can be (the largest finite value and half a place, 31 times 1082401 *
2^103, 2^128 - 2^103 as an integer), and passed just below; opposite and zero operands; NaN; the infinities. -/
theorem test_meets_ArithmeticRoundsToNearest_limits :
    let limit : Nat := (2 ^ 25 - 1) * 2 ^ 252
    (f32Finite 0x7F7FFFFF#32 = true ∧ f32Finite 0x73000000#32 = true ∧
      (f32Val 0x7F7FFFFF#32 + f32Val 0x73000000#32).natAbs = limit ∧
      (f32Val 0x7F7FFFFF#32 + f32Val 0x72FFFFFF#32).natAbs < limit) ∧
    f32Val 0x3F800000#32 + f32Val 0xBF800000#32 = 0 ∧ f32Val 0x80000000#32 + f32Val 0x80000000#32 = 0 ∧
    ((f32Val 0x41F80000#32 * f32Val 0x7D042108#32).natAbs = limit * 2 ^ 149 ∧
      (f32Val 0x3F800000#32 * f32Val 0xFF7FFFFF#32).natAbs < limit * 2 ^ 149) ∧
    (f32Val 0x3F000000#32 ≠ 0 ∧ limit * (f32Val 0x3F000000#32).natAbs ≤ (f32Val 0x7F7FFFFF#32).natAbs * 2 ^ 149 ∧
      (f32Val 0x7F7FFFFF#32).natAbs * 2 ^ 149 < limit * (f32Val 0x3F800000#32).natAbs) ∧
    (f32Val 0x80000000#32 = 0 ∧ f32Val 0x00000001#32 ≠ 0) ∧
    ((-((2 ^ 25 - 1) * 2 ^ 103) : Int).natAbs * 2 ^ 149 = limit ∧ ((2 ^ 25 - 1) * 2 ^ 103 - 1 : Int).natAbs * 2 ^ 149 < limit) ∧
    f32IsNaN 0x7F800001#32 = true ∧ f32IsNaN 0xFFFFFFFF#32 = true ∧ f32IsNaN 0x3F800000#32 = false ∧
    f32IsNaN (f32Sub 0x3F800000#32 0x40000000#32) = false ∧
    (f32IsInf 0xFF800000#32 = true ∧ f32IsNaN 0x7F800000#32 = false ∧ 0x7F800000#32 = 0xFF800000#32 ^^^ 0x80000000#32 ∧
      0x00000000#32 ≠ 0xFF800000#32 ^^^ 0x80000000#32 ∧ f32IsZero 0x00000000#32 = true ∧ f32IsZero 0x00000001#32 = false ∧
      f32IsInf 0x00000001#32 = false) := by decide +kernel

theorem test_meets_ConversionsToIntegers :
    f32Finite 0xC0200000#32 = true ∧ 2 * (f32RoundAway 0xC0200000#32 * 2 ^ 149 - f32Val 0xC0200000#32).natAbs = 2 ^ 149 ∧
    (-16777216 : Int).natAbs ≤ 2 ^ 24 := by decide +kernel

theorem test_meets_AddTriangleQueuesPreparedTriangle :
    [(⟨9, 1⟩ : Point), ⟨1, 5⟩, ⟨9, 9⟩].Perm [⟨1, 5⟩, ⟨9, 9⟩, ⟨9, 1⟩] ∧ ((1 : Int) < 5 ∧ (5 : Int) < 9) ∧
    [(⟨3, 3⟩ : Point), ⟨3, 3⟩, ⟨3, 3⟩].Perm [⟨3, 3⟩, ⟨3, 3⟩, ⟨3, 3⟩] ∧ ((3 : Int) = 3 ∧ (3 : Int) ≤ 3) := by decide

theorem test_meets_LineJoinsItsEndPoints :
    (bresenham 0 0 3 1)[2]? = some ⟨2, 1⟩ ∧ (bresenham 0 0 3 1)[3]? = some ⟨3, 1⟩ := by decide +kernel

/-- A vertex 2^40 away. -/
def farVertex : Vertex3 := ⟨0x53800000#32, 0#32, 0#32, 5#16⟩

theorem test_meets_FlattenEmptiesAClosedMesh :
    (∃ g m, (scene148 .closed).mode = .graphic3D g m ∧ m.meshState = .closed ∧ m.mesh.length = 3 ∧
      ∀ v, v ∈ m.mesh → toPixel? (scene148 .closed).params g m v ≠ none) ∧
    (let m : Scene := { Scene.fresh with mesh := [⟨0#32, 0#32, 0#32, 5#16⟩, farVertex, farVertex], meshState := .closed }
     m.mesh = [⟨0#32, 0#32, 0#32, 5#16⟩] ++ farVertex :: [farVertex] ∧ 1 / 3 * 3 + 3 ≤ m.mesh.length ∧
       toPixel? base.params screen m ⟨0#32, 0#32, 0#32, 5#16⟩ ≠ none ∧ toPixel? base.params screen m farVertex = none) ∧
    (let near : Vertex3 := ⟨0#32, 0#32, 0#32, 5#16⟩
     let m : Scene := { Scene.fresh with mesh := [near, near, near, farVertex, near, near], meshState := .closed }
     m.mesh = [near, near, near] ++ farVertex :: [near, near] ∧ 3 / 3 * 3 + 3 ≤ m.mesh.length ∧ 0 < 3 / 3 ∧
       m.mesh[3 * 0]? = some near ∧ toPixel? base.params screen m near = some ⟨8, 4⟩) ∧
    ∀ g m, base.mode = .graphic3D g m → m.meshState ≠ .closed :=
  ⟨⟨_, _, rfl, rfl, rfl, by decide +kernel⟩, by decide +kernel, by decide +kernel, nofun⟩

/-- A pass over a closed mesh: all its vertices map, or the second of its first group does not. -/
theorem test_meets_FlattenEmptiesAClosedMesh_render :
    (let s : State := { scene148 .closed with aPhase := .render 0 }
     ∃ g m, s.mode = .graphic3D g m ∧ m.meshState = .closed ∧ s.aPhase = .render 0 ∧ s.lock = .free ∧ s.bus = .free ∧
       ∀ v, v ∈ m.mesh → toPixel? s.params g m v ≠ none) ∧
    (let near : Vertex3 := ⟨0#32, 0#32, 0#32, 5#16⟩
     let s : State := { in3D [near, farVertex, near] .closed with aPhase := .render 7 }
     ∃ g m, s.mode = .graphic3D g m ∧ m.meshState = .closed ∧ s.aPhase = .render 7 ∧ s.lock = .free ∧ s.bus = .free ∧
       m.mesh = [near] ++ farVertex :: [near] ∧ 1 / 3 * 3 + 3 ≤ m.mesh.length ∧
       toPixel? s.params g m near ≠ none ∧ toPixel? s.params g m farVertex = none) :=
  ⟨⟨_, _, rfl, rfl, rfl, rfl, rfl, by decide +kernel⟩,
   ⟨_, _, rfl, rfl, rfl, rfl, rfl, rfl, by decide, by decide +kernel, by decide +kernel⟩⟩

/-- A pass flattens first: the mesh of R148 is drawn, and a vertex without a pixel stops the pass (R132, R138). -/
theorem test_flatten_in_a_pass :
    gives (exec .render { scene148 .closed with aPhase := .render 0, clearColor := 1#16 }) (fun t =>
      extByte t (1000 + 8 * 16 + 8) == 5#8 && extByte t (1000 + 9 * 16 + 8) == 1#8 && t.prims == [] && t.tickDone) = true ∧
    gives (exec .render { in3D [farVertex, farVertex, farVertex] .closed with aPhase := .render 0 }) (fun t =>
      t.fault == some (.nonFiniteVertex farVertex) && t.lock == .held .a && t.ext == []) = true := by decide +kernel

theorem test_meets_SegmentsSplitAtPages : (1023, 1) ∈ segments 1023 1026 ∧ (1024, 1024) ∈ segments 1023 1026 := by
  rw [test_segments.2.1]
  decide

theorem test_meets_SegmentsSplitAtPages_end :
    (segments 1023 1026)[1]? = some (1024, 1024) ∧ (segments 1023 1026)[2]? = some (2048, 1) := by
  rw [test_segments.2.1]
  decide

/-- A write whose second segment is past the end. -/
theorem test_meets_WriteLineWritesItsBytesOnly :
    segments (lineAddr Params.vectors screen .one 65) 16 = [(2040, 8)] ++ (2048, 8) :: [] ∧
    (∀ p, p ∈ [(2040, 8)] → p.1 + p.2 ≤ Params.vectors.extMemSize) ∧ Params.vectors.extMemSize < 2048 + 8 := by
  decide +kernel

theorem test_meets_UnpackOfPack : ∀ p, p ∈ ([0xFFF#16, 0#16] : List Pixel) → p.toNat < 2 ^ Depth.d12.bits := by
  simp [Depth.bits]

/-- The first bit of a second pixel, in the middle of a byte; the last bit of a byte, after the last pixel; and bytes of just
two pixels, and their last bit. -/
theorem test_meets_UnpackOfPack_bits :
    (12 / Depth.d12.bits = 1 ∧ (pack Depth.d12.bits [0xFFF#16, 0#16])[12 / 8]? = some 0x0F#8) ∧
    ((pack Depth.d1.bits [1#16])[7 / 8]? = some 0x01#8 ∧ [1#16].length ≤ 7 / Depth.d1.bits) ∧
    (2 * Depth.d12.bits ≤ 8 * [0xBC#8, 0x3A#8, 0x12#8].length ∧
      (unpack Depth.d12.bits 2 [0xBC#8, 0x3A#8, 0x12#8])[1]? = some 0x123#16 ∧ 11 < Depth.d12.bits ∧
      [0xBC#8, 0x3A#8, 0x12#8][(1 * Depth.d12.bits + 11) / 8]? = some 0x12#8) := by decide +kernel

theorem test_meets_line_transfers :
    base.mode.screen? = some screen ∧ base.bus = .free ∧
    lineAddr Params.vectors screen .one 64 + 24 ≤ Params.vectors.extMemSize ∧
    lineAddr Params.vectors screen .zero 127 + 16 ≤ Params.vectors.extMemSize ∧
    Params.vectors.extMemSize ≤ lineAddr Params.vectors screen .one 66 ∧
    Params.vectors.extMemSize ≤ lineAddr Params.vectors screen .zero 128 ∧
    (segments (lineAddr Params.vectors screen .zero 127) 17 = [(2032, 16)] ++ (2048, 1) :: [] ∧
      (∀ p, p ∈ [(2032, 16)] → p.1 + p.2 ≤ Params.vectors.extMemSize) ∧ Params.vectors.extMemSize < 2048 + 1) :=
  ⟨rfl, rfl, by decide, by decide, by decide, by decide, by decide +kernel⟩

theorem test_meets_TextModeIsRefused :
    ∃ s : State, s.mode.screen? = none ∧ s.lock = .free ∧ s.aPhase = .render 0 ∧ s.bPhase = .read :=
  ⟨{ inText with aPhase := .render 0, bPhase := .read }, rfl, rfl, rfl, rfl⟩

/-- The runs of a primitive, tried line by line. -/
theorem runsInside_of_lines {w y : Nat} {p : Primitive}
    (h : ∀ y', y' < y → (spanOn y' p).all (fun q => decide (q.x0 ≤ q.x1 → 0 ≤ q.x0 ∧ q.x1 < (w : Int))) = true) :
    runsInside w y p := by
  intro y' q hy hq
  have h' := h y' hy
  rw [hq] at h'
  exact of_decide_eq_true h'

/-- The triangle (0, 0), (15, 7), (0, 7), on the screen from corner to corner. -/
def cornerTri : Primitive := .tri (prepare ⟨0, 0⟩ ⟨15, 7⟩ ⟨0, 7⟩ 4#16)

/-- Spans at the edges of the screen, an empty one, and a triangle. -/
def edgePrims : List Primitive :=
  [.span ⟨0#16, 0, 15, 1#16⟩, .span ⟨7#16, 15, 15, 2#16⟩, .span ⟨7#16, 15, 14, 3#16⟩, cornerTri]

theorem test_meets_PassDrawsTheSpans :
    base.mode.screen? = some screen ∧ (∀ g m, base.mode = .graphic3D g m → m.meshState ≠ .closed) ∧
    planesFit base.params screen = true ∧ base.lock = .free ∧ base.bus = .free ∧
    (rendering edgePrims).aPhase = .render 0 ∧
    ∀ p, p ∈ edgePrims → lastLine p < screen.height.toNat ∧ runsInside screen.width.toNat screen.height.toNat p := by
  refine ⟨rfl, nofun, by decide, rfl, rfl, rfl, ?_⟩
  simp only [edgePrims, List.forall_mem_cons]
  exact ⟨⟨by decide, runsInside_of_lines (by decide +kernel)⟩, ⟨by decide, runsInside_of_lines (by decide +kernel)⟩,
    ⟨by decide, runsInside_of_lines (by decide +kernel)⟩, ⟨by decide +kernel, runsInside_of_lines (by decide +kernel)⟩, nofun⟩

theorem test_meets_GoldenRaster :
    let g : Screen := ⟨10#16, 10#16, .d8, false⟩
    let s : State := { rendering [] with mode := .graphic2D g }
    s.mode.screen? = some g ∧ (∀ g' m, s.mode = .graphic3D g' m → m.meshState ≠ .closed) ∧ planesFit s.params g = true ∧
      s.aPhase = .render 0 ∧ s.lock = .free ∧ s.bus = .free ∧ s.prims = [] ∧ 10 ≤ g.width.toNat ∧ 10 ≤ g.height.toNat :=
  ⟨rfl, nofun, by decide, rfl, rfl, rfl, rfl, by decide, by decide⟩

/-- Runs that leave their line: from inside it, from its left, and a triangle's on its third line; and primitives below the
screen. -/
theorem test_meets_PassFaults :
    (∃ q, spanOn 7 (.span ⟨7#16, 3, 16, 1#16⟩) = some q ∧ q.x0 ≤ q.x1 ∧ (screen.width.toNat : Int) ≤ q.x1 ∧
      runsInside screen.width.toNat 7 (.span ⟨7#16, 3, 16, 1#16⟩)) ∧
    (∃ q, spanOn 0 (.span ⟨0#16, -1, 3, 1#16⟩) = some q ∧ q.x0 ≤ q.x1 ∧ q.x0 < 0 ∧
      runsInside screen.width.toNat 0 (.span ⟨0#16, -1, 3, 1#16⟩)) ∧
    (let p : Primitive := .tri (prepare ⟨13, 0⟩ ⟨13, 2⟩ ⟨17, 2⟩ 1#16)
     ∃ q, spanOn 2 p = some q ∧ q.x0 ≤ q.x1 ∧ (screen.width.toNat : Int) ≤ q.x1 ∧ runsInside screen.width.toNat 2 p) ∧
    (let p : Primitive := .tri (prepare ⟨0, 6⟩ ⟨3, 9⟩ ⟨0, 9⟩ 1#16)
     screen.height.toNat ≤ lastLine p ∧ runsInside screen.width.toNat screen.height.toNat p) ∧
    screen.height.toNat ≤ lastLine (.span ⟨8#16, 3, 3, 1#16⟩) ∧
    runsInside screen.width.toNat screen.height.toNat (.span ⟨8#16, 3, 3, 1#16⟩) :=
  ⟨⟨_, rfl, by decide, by decide, runsInside_of_lines (by decide +kernel)⟩,
   ⟨_, rfl, by decide, by decide, runsInside_of_lines (by decide +kernel)⟩,
   ⟨_, rfl, by decide +kernel, by decide +kernel, runsInside_of_lines (by decide +kernel)⟩,
   ⟨by decide +kernel, runsInside_of_lines (by decide +kernel)⟩, by decide, runsInside_of_lines (by decide +kernel)⟩

/-- On line 7 a run that stays inside, one that leaves it and one that would; and three primitives of which two are below
the screen. -/
theorem test_meets_PassFaults_queue :
    (let p : Primitive := .span ⟨7#16, 3, 16, 2#16⟩
     let post : List Primitive := [.span ⟨7#16, -1, 0, 3#16⟩, .span ⟨9#16, 0, 0, 4#16⟩]
     (∀ r, r ∈ [cornerTri] ++ p :: post → runsInside screen.width.toNat 7 r) ∧
     (∀ r, r ∈ [cornerTri] → runsInside screen.width.toNat (7 + 1) r) ∧ 7 < screen.height.toNat ∧
     ∃ q, spanOn 7 p = some q ∧ q.x0 ≤ q.x1 ∧ (screen.width.toNat : Int) ≤ q.x1) ∧
    (let prims : List Primitive := [.span ⟨8#16, 3, 3, 1#16⟩, cornerTri, .tri (prepare ⟨0, 6⟩ ⟨3, 9⟩ ⟨0, 9⟩ 1#16)]
     (∀ r, r ∈ prims → runsInside screen.width.toNat screen.height.toNat r) ∧
     (∃ r, r ∈ prims ∧ screen.height.toNat ≤ lastLine r) ∧
     (prims.filter fun r => decide (screen.height.toNat ≤ lastLine r)).length = 2) := by
  refine ⟨⟨?_, ?_, by decide, _, rfl, by decide, by decide⟩, ?_, ⟨_, List.mem_cons_self, by decide⟩, by decide +kernel⟩
  · simp only [List.cons_append, List.nil_append, List.forall_mem_cons]
    exact ⟨runsInside_of_lines (by decide +kernel), runsInside_of_lines (by decide +kernel),
      runsInside_of_lines (by decide +kernel), runsInside_of_lines (by decide +kernel), nofun⟩
  · simp only [List.forall_mem_cons]
    exact ⟨runsInside_of_lines (by decide +kernel), nofun⟩
  · simp only [List.forall_mem_cons]
    exact ⟨runsInside_of_lines (by decide +kernel), runsInside_of_lines (by decide +kernel),
      runsInside_of_lines (by decide +kernel), nofun⟩

theorem test_meets_next_states :
    (∃ t, exec .render base = .next t) ∧ (∃ t, exec .flatten base = .next t) ∧
    (∃ t, exec .deliver (framing .awaitToken .tok 1 0 none) = .next t) ∧ (∃ t, exec .transferComplete base = .next t) ∧
    (∃ t, exec .store base = .next t) ∧ (∃ t, exec .getSlot base = .next t) ∧ (∃ t, exec .scanlineRead base = .next t) ∧
    (∃ t, exec .submit base = .next t) ∧ (∃ t, exec .dispatch base = .next t) ∧
    (encodeMessage base.params.wire .swapBuffer).isSome = true ∧ ∃ t, exec .swapBuffer base = .next t :=
  ⟨⟨_, rfl⟩, ⟨_, rfl⟩, ⟨_, rfl⟩, ⟨_, rfl⟩, ⟨_, rfl⟩, ⟨_, rfl⟩, ⟨_, rfl⟩, ⟨_, rfl⟩, ⟨_, rfl⟩, rfl, ⟨_, rfl⟩⟩

theorem test_meets_TickIsRequestedAndTaken :
    (base.bPhase = .getSlot ∧ base.dispNext.phys = 0) ∧
    (∃ s : State, s.bPhase = .getSlot ∧ s.dispNext.phys + 1 = s.params.videoLines) ∧
    ∃ s : State, s.aPhase = .idle ∧ s.tickReq = true :=
  ⟨⟨rfl, rfl⟩, ⟨{ base with dispNext := ⟨0, 7⟩ }, rfl, rfl⟩, ⟨{ base with tickReq := true }, rfl, rfl⟩⟩

theorem test_meets_ScanlineReadUnpacksTheReadPlane :
    let s := reading ⟨0, 15⟩ 2
    let u := reading ⟨0, 16⟩ 2
    s.mode.screen? = some screen ∧ s.bPhase = .read ∧ s.bSlot = some ⟨0, 15⟩ ∧ s.lock = .free ∧ 1 ≤ s.params.vScale ∧
      15 / s.params.vScale < screen.height.toNat ∧ s.bus = .free ∧ planesFit s.params screen = true ∧
      u.bSlot = some ⟨0, 16⟩ ∧ screen.height.toNat ≤ 16 / u.params.vScale := by
  refine ⟨rfl, rfl, rfl, rfl, ?_, ?_, rfl, ?_, rfl, ?_⟩ <;> decide

theorem test_meets_SubmitAppendsTheScanline :
    (∃ s : State, s.bPhase = .submit ∧ s.bSlot = some ⟨0, 0⟩) ∧
    (reading ⟨0, 15⟩ 2).mode.screen? = some screen ∧ (reading ⟨0, 15⟩ 2).bPhase = .read ∧
    (reading ⟨0, 15⟩ 2).bSlot = some ⟨0, 15⟩ ∧ (reading ⟨0, 15⟩ 2).lock = .free ∧
    gives (exec .scanlineRead (reading ⟨0, 15⟩ 2)) (fun t => t.bPhase == .submit) = true :=
  ⟨⟨{ base with bPhase := .submit, bSlot := some ⟨0, 0⟩ }, rfl, rfl⟩, rfl, rfl, rfl, rfl, by decide +kernel⟩

theorem test_meets_ResetMeetsTheInvariants : paramsOk Params.vectors :=
  ⟨by decide, by decide, screen, rfl, by decide, by decide, by decide, by decide⟩

theorem test_meets_ResetValues : Params.vectors.wire.ids.legal = true ∧ Params.vectors.wire.ids.lacks 0x00#8 = true ∧
    Params.vectors.wire.ids.lacks 0xFF#8 = true := by decide

/-- A payload half received, a message waiting, and the framer's turn: every invariant of the step holds. -/
def midway : State :=
  { framing .awaitPayload .pay 6 6 (some slotE1) with q := [bare 0x06#8], sched := [.framer], ext := [(1000, 1#8)] }

theorem test_meets_the_invariants :
    linkOk midway ∧ queueBounded midway ∧ planesDistinct midway ∧ locksFree midway ∧ memoryOk midway ∧ modeLegal midway ∧
    noExtMemRange midway ∧ (∃ t, step midway = .next t) ∧ messageOnlyInDrain midway ∧
    messageOnlyInDrain (popped 0x06#8 []) ∧ (popped 0x06#8 []).aMsg ≠ none := by
  refine ⟨⟨?_, ?_⟩, ?_, nofun, fun _ => ⟨rfl, rfl⟩, ⟨rfl, ?_⟩, ⟨?_, ?_, ?_⟩, nofun, ⟨_, rfl⟩, nofun, fun _ => rfl, nofun⟩
  · refine ⟨slotE1, 0x06#8, rfl, by decide, by decide, by decide, rfl, ⟨_, rfl⟩, rfl, by decide, ?_⟩
    intro i hi
    rcases i with _ | _ | _ | _ | _ | _ | i
    iterate 6 exact ⟨_, rfl⟩
    exact absurd hi (by simp [midway, framing])
  · intro m hm
    simp only [midway, List.mem_singleton] at hm
    subst hm
    exact ⟨rfl, by decide, by decide, nofun⟩
  · exact Nat.le_add_left 2 30
  · intro c hc
    simp only [midway, List.mem_singleton] at hc
    subst hc
    decide
  · decide
  · decide
  · intro g hg
    cases hg
    decide

/-- Each fault code is raised by some instruction: code 2 by `test_render_fault`, the others here. -/
theorem test_meets_fault_1 :
    gives (exec .render (rendering [.span ⟨8#16, 3, 3, 1#16⟩])) (fun t => t.fault == some (.triangleNotRetired 1)) = true := by
  decide +kernel

theorem test_meets_fault_3 :
    gives (exec (.readLine 128 16) base) (fun t => t.fault == some (.extMemRange 2048)) = true := by decide +kernel

theorem test_meets_fault_4 :
    gives (exec .flatten (in3D [farVertex, farVertex, farVertex] .closed))
      (fun t => t.fault == some (.nonFiniteVertex farVertex)) = true := by decide +kernel

theorem test_meets_VertexMapsToItsPixel :
    toPixel? base.params screen Scene.fresh ⟨0#32, 0#32, 0#32, 5#16⟩ ≠ none ∧
    toPixel? base.params screen Scene.fresh farVertex = none ∧
    Params.vectors.tz = 0x40000000#32 ∧ f32Lt Params.vectors.eps 0x3F800000#32 = true ∧
    (∃ g m, (scene148 .closed).mode = .graphic3D g m ∧ g.width = 16#16 ∧ g.height = 16#16 ∧ m.angle = 0#32 ∧
      m.proj = perspective 0x3FC90FDB#32 0x3F800000#32 0x3F800000#32 0x40400000#32) :=
  ⟨by decide +kernel, by decide +kernel, rfl, by decide +kernel, _, _, rfl, rfl, rfl, rfl, by decide +kernel⟩

theorem test_meets_RotationsAreRoundedRotationMatrices :
    f32IsZero 0x00000000#32 = true ∧ f32IsZero 0x80000000#32 = true := by decide

end Sys2Proof.Tests
end

section
/-! PROOF. WaitingChangesNothing (spec/00_scope.md R13): each operation that waits, said once, and each agent's. -/

open Sys2Proof

namespace Sys2Proof.Machine

variable {s : State}

/-- An agent with nothing to do uses up its turn and no more (R13; log 2). -/
theorem step_of_wait {t : Turn} {rest : List Turn} (h : stopped s = false) (hs : s.sched = t :: rest)
    (ha : actionOf t { s with sched := rest } = .wait) : step s = .next { s with sched := rest } := by
  rw [step_scheduled h hs, ha]
  rfl

/-! ### Which agents wait -/

/-- The Framer waits for the bytes of a block that is not full (R84). -/
theorem framerAction_wait (hp : s.frPhase ≠ .init)
    (h : ∀ t n, s.frArmed = some (t, n) → s.frFilled < n ∧ s.rx = []) : framerAction s = .wait := by
  rw [framerAction, if_neg hp]
  split
  · rfl
  · rename_i t n ha
    obtain ⟨hn, hrx⟩ := h t n ha
    rw [if_neg (by omega), if_neg (fun hd => hd.2 hrx)]

/-- A waits for a tick (R166). -/
theorem ctxAAction_wait (hp : s.aPhase = .idle) (ht : s.tickReq = false) : ctxAAction s = .wait := by
  simp [ctxAAction, hp, ht]

/-- B waits for its tick to be done (R159). -/
theorem ctxBAction_wait (hp : s.bPhase = .waitTick) (ht : s.tickDone = false) : ctxBAction s = .wait := by
  simp [ctxBAction, hp, ht]

/-! ### Which operations wait -/

/-- A takes a tick only when idle with one requested (R166). -/
theorem renderTick_waits (h : ¬(s.aPhase = .idle ∧ s.tickReq = true)) : renderTick? s = none := if_neg h

/-- With no slot held B reads no line in a Graphic mode (log 35). -/
theorem scanlineRead_noSlot (hb : s.bSlot = none) (hg : s.mode.screen? ≠ none) : scanlineRead? s = none := by
  obtain ⟨g, hg⟩ := Option.ne_none_iff_exists'.mp hg
  rw [scanlineRead?]
  cases s.bPhase with
  | read =>
    by_cases hl : s.lock = .free
    · simp [acquireLock_free hl, hb, hg]
    · simp [acquireLock_held hl]
  | _ => rfl

/-- With no slot held B submits none (log 35). -/
theorem submit_noSlot (hb : s.bSlot = none) : submit? s = none := by
  refine Option.eq_none_iff_forall_ne_some.mpr fun t ht => ?_
  obtain ⟨slot, -, hs, -⟩ := submit_spec ht
  cases hb.symm.trans hs

/-- A render pass waits for the lock (R51, R132). -/
theorem render_held (h : s.lock ≠ .free) : render? s = none :=
  Option.eq_none_iff_forall_ne_some.mpr fun _ ht => h (render_spec ht).1

/-- A scanline read waits for the lock (R51, R161). -/
theorem scanlineRead_held (h : s.lock ≠ .free) : scanlineRead? s = none :=
  Option.eq_none_iff_forall_ne_some.mpr fun _ ht => h (scanlineRead_spec ht).2.1

/-- A mode change to a mode that passes the test waits for the lock (R51, R112). -/
theorem modeChange_held {mode depth palette font : Byte} {w h : Word16} (hl : s.lock ≠ .free)
    (hm : newMode? s.params mode w h depth palette font ≠ none) : modeChange? mode w h depth palette font s = none := by
  obtain ⟨m, hm⟩ := Option.ne_none_iff_exists'.mp hm
  simp only [modeChange?, hm, acquireLock_held hl]

/-- The handler of a swap, or of a mode change that passes the test, waits for the lock (R51). -/
theorem runHandler_held {k : CommandKind} {p : List Byte} (hl : s.lock ≠ .free)
    (h : k = .swapBuffer ∨ ∃ mode w h depth palette font, instrOf k p = .modeChange mode w h depth palette font ∧
      newMode? s.params mode w h depth palette font ≠ none) : runHandler k p s = none := by
  rcases h with rfl | ⟨mode, w, h, depth, palette, font, hi, hm⟩
  · exact swapBuffer_held hl
  · cases k with
    | modeChange =>
      obtain ⟨rfl, rfl, rfl, rfl, rfl, rfl⟩ := Instr.modeChange.inj hi
      exact modeChange_held hl hm
    | _ => cases hi

/-- An instruction whose operation waits changes nothing (R13). -/
theorem exec_of_wait {i : Instr} {o : Option State} (hi : exec i s = stepOrWait s o) (ho : o = none) :
    exec i s = .next s := by
  rw [hi, ho, stepOrWait_none]

/-- Settles O6: each agent that waits, then each operation. -/
theorem waitingChangesNothing : Obligations.WaitingChangesNothing := by
  unfold Obligations.WaitingChangesNothing
  intro s rest h
  refine ⟨fun hs hp ha => step_of_wait h hs (framerAction_wait hp ha),
    fun hs hp ht => step_of_wait h hs (ctxAAction_wait hp ht),
    fun hs hp ht => step_of_wait h hs (ctxBAction_wait hp ht),
    fun hn => exec_of_wait rfl (renderTick_waits hn),
    fun hb => ⟨fun hg => exec_of_wait rfl (scanlineRead_noSlot hb hg), exec_of_wait rfl (submit_noSlot hb)⟩,
    fun hl => ⟨exec_of_wait rfl (render_held hl), exec_of_wait rfl (scanlineRead_held hl),
      exec_of_wait rfl (swapBuffer_held hl), fun mode w h depth palette font hm => exec_of_wait rfl (modeChange_held hl hm),
      fun m k hm hk hc => exec_of_wait rfl ?_⟩⟩
  rw [dispatch_handler hm hk]
  exact runHandler_held (s := { s with aMsg := none, draws := s.draws + k.size }) hl hc

end Sys2Proof.Machine
end

section
/-! PROOF. The bit pattern of a binary32 value (spec/00_scope.md R11) as a sign and a code, the number its other 31 bits
make. The magnitude of a value is a rising function of its code, on which rounding, the order and the kinds of values
(zero, finite, infinite, NaN) rest. -/

open Sys2Proof

namespace Sys2Proof.Machine

/-- The bits below the sign, as a number. -/
def f32Code (x : F32) : Nat := x.toNat % 2 ^ 31

/-- The magnitude of the value with code `e`, in units of 2^-149. -/
def codeMag (e : Nat) : Nat := if e / 2 ^ 23 = 0 then e % 2 ^ 23 else (e % 2 ^ 23 + 2 ^ 23) * 2 ^ (e / 2 ^ 23 - 1)

/-! ### Sign and code -/

/-- A pattern is its sign bit and its code. -/
theorem f32_toNat (x : F32) : x.toNat = (if f32Neg x then 2 ^ 31 else 0) + f32Code x := by
  have h := x.isLt
  rw [f32Neg, BitVec.msb_eq_decide, f32Code]
  by_cases hs : 2 ^ 31 ≤ x.toNat
  · rw [if_pos (decide_eq_true hs)]
    omega
  · rw [if_neg (by simpa using hs)]
    omega

theorem f32Code_lt (x : F32) : f32Code x < 2 ^ 31 := Nat.mod_lt _ (by decide)

/-- Sign and code make the pattern. -/
theorem f32_ext {x y : F32} (hs : f32Neg x = f32Neg y) (hc : f32Code x = f32Code y) : x = y := by
  apply BitVec.eq_of_toNat_eq
  rw [f32_toNat x, f32_toNat y, hs, hc]

theorem f32Mag_eq (x : F32) : f32Mag x = codeMag (f32Code x) := by
  have he : f32Exp x = f32Code x / 2 ^ 23 := by rw [f32Exp, f32Code]; omega
  have hf : f32Frac x = f32Code x % 2 ^ 23 := by rw [f32Frac, f32Code]; omega
  rw [f32Mag, codeMag, he, hf]

/-! ### The kinds of values -/

theorem f32Finite_iff {x : F32} : f32Finite x = true ↔ f32Code x < 255 * 2 ^ 23 := by
  rw [f32Finite, bne_iff_ne, f32Exp, f32Code]
  omega

theorem f32IsInf_iff {x : F32} : f32IsInf x = true ↔ f32Code x = 255 * 2 ^ 23 := by
  rw [f32IsInf, Bool.and_eq_true, beq_iff_eq, beq_iff_eq, f32Exp, f32Frac, f32Code]
  omega

theorem f32IsNaN_iff {x : F32} : f32IsNaN x = true ↔ 255 * 2 ^ 23 < f32Code x := by
  rw [f32IsNaN, Bool.and_eq_true, beq_iff_eq, bne_iff_ne, f32Exp, f32Frac, f32Code]
  omega

theorem f32IsZero_iff {x : F32} : f32IsZero x = true ↔ f32Code x = 0 := by
  rw [f32IsZero, Bool.and_eq_true, beq_iff_eq, beq_iff_eq, f32Exp, f32Frac, f32Code]
  omega

theorem f32IsNaN_of_finite {x : F32} (h : f32Finite x = true) : f32IsNaN x = false := by
  rw [Bool.eq_false_iff, Ne, f32IsNaN_iff]
  have := f32Finite_iff.mp h
  omega

theorem f32IsInf_of_finite {x : F32} (h : f32Finite x = true) : f32IsInf x = false := by
  rw [Bool.eq_false_iff, Ne, f32IsInf_iff]
  have := f32Finite_iff.mp h
  omega

theorem f32IsNaN_of_inf {x : F32} (h : f32IsInf x = true) : f32IsNaN x = false := by
  rw [Bool.eq_false_iff, Ne, f32IsNaN_iff]
  have := f32IsInf_iff.mp h
  omega

@[simp] theorem f32Neg_inf (s : Bool) : f32Neg (f32Inf s) = s := by cases s <;> rfl

@[simp] theorem f32Code_inf (s : Bool) : f32Code (f32Inf s) = 255 * 2 ^ 23 := by cases s <;> rfl

theorem f32_eq_inf_iff {x : F32} {s : Bool} : x = f32Inf s ↔ f32Neg x = s ∧ f32Code x = 255 * 2 ^ 23 := by
  refine ⟨fun h => ?_, fun ⟨hs, hc⟩ => f32_ext ?_ ?_⟩
  · rw [h]
    exact ⟨f32Neg_inf s, f32Code_inf s⟩
  · rw [hs, f32Neg_inf]
  · rw [hc, f32Code_inf]

/-! ### Magnitudes rise with codes -/

/-- The code with exponent part `k` and significand `n` of at most 24 bits; at `n = 2^24` the next exponent's first. -/
theorem codeMag_significand {k n : Nat} (hn : n ≤ 2 ^ 24) (hk : k = 0 ∨ 2 ^ 23 ≤ n) :
    codeMag (k * 2 ^ 23 + n) = n * 2 ^ k := by
  rw [codeMag]
  by_cases hsub : n < 2 ^ 23
  · obtain rfl : k = 0 := by omega
    rw [if_pos (by omega)]
    omega
  · by_cases hmax : n = 2 ^ 24
    · rw [if_neg (by omega), show (k * 2 ^ 23 + n) / 2 ^ 23 - 1 = k + 1 by omega,
        show (k * 2 ^ 23 + n) % 2 ^ 23 = 0 by omega, hmax]
      ring
    · rw [if_neg (by omega), show (k * 2 ^ 23 + n) / 2 ^ 23 - 1 = k by omega,
        show (k * 2 ^ 23 + n) % 2 ^ 23 + 2 ^ 23 = n by omega]

/-- Every code has an exponent part and a significand of 24 bits, or fewer with the least exponent. -/
theorem exists_significand (e : Nat) : ∃ k n, e = k * 2 ^ 23 + n ∧ n < 2 ^ 24 ∧ (k = 0 ∨ 2 ^ 23 ≤ n) :=
  ⟨e / 2 ^ 23 - 1, e - (e / 2 ^ 23 - 1) * 2 ^ 23, by omega, by omega, by omega⟩

theorem codeMag_strictMono : StrictMono codeMag := by
  refine strictMono_nat_of_lt_succ fun e => ?_
  obtain ⟨k, n, rfl, hn, hk⟩ := exists_significand e
  rw [codeMag_significand hn.le hk, Nat.add_assoc, codeMag_significand (by omega) (by omega)]
  exact Nat.mul_lt_mul_of_pos_right n.lt_succ_self (Nat.two_pow_pos k)

@[simp] theorem codeMag_zero : codeMag 0 = 0 := rfl

/-- The code of the infinities stands one place above the largest finite value. -/
theorem codeMag_infinity : codeMag (255 * 2 ^ 23) = 2 ^ 24 * 2 ^ 253 :=
  codeMag_significand (k := 253) (n := 2 ^ 24) le_rfl (by decide)

theorem codeMag_largest : codeMag (255 * 2 ^ 23 - 1) = (2 ^ 24 - 1) * 2 ^ 253 :=
  codeMag_significand (k := 253) (n := 2 ^ 24 - 1) (by decide) (by decide)

/-! ### Values -/

theorem f32Val_signed (x : F32) : f32Val x = signed (f32Neg x) (f32Mag x) := rfl

theorem f32Val_eq (x : F32) : f32Val x = signed (f32Neg x) (codeMag (f32Code x)) := by
  rw [f32Val_signed, f32Mag_eq]

@[simp] theorem natAbs_signed (neg : Bool) (n : Nat) : (signed neg n).natAbs = n := by cases neg <;> simp [signed]

theorem natAbs_f32Val (x : F32) : (f32Val x).natAbs = f32Mag x := natAbs_signed _ _

theorem f32Val_eq_zero {x : F32} : f32Val x = 0 ↔ f32IsZero x = true := by
  rw [← Int.natAbs_eq_zero, natAbs_f32Val, f32Mag_eq, f32IsZero_iff,
    codeMag_strictMono.injective.eq_iff' codeMag_zero]

theorem f32IsZero_of_val_ne {x : F32} (h : f32Val x ≠ 0) : f32IsZero x = false :=
  Bool.eq_false_iff.mpr (mt f32Val_eq_zero.mpr h)

end Sys2Proof.Machine
end

section
/-! PROOF. Rounding (spec/00_scope.md R11): `f32Round` takes one of the two neighbouring codes between whose magnitudes the
exact value lies, so its result is nearest, ties to even, and overflows exactly half a place past the largest value. -/

open Sys2Proof

namespace Sys2Proof.Machine

/-- The choice between the codes `e` and `e + 1` for a value `num/den` between them: the nearer, at a tie the even one. -/
def nearerCode (e num den : Nat) : Nat :=
  if (codeMag e + codeMag (e + 1)) * den < 2 * num then e + 1
  else if (codeMag e + codeMag (e + 1)) * den = 2 * num then e + e % 2
  else e

/-- The scaling exponent of `f32Round` leaves a significand of 24 bits, or of fewer with the least exponent. -/
theorem roundExponent_significand (whole : Nat) :
    let k := if whole < 2 ^ 24 then 0 else Nat.log2 whole - 23
    whole / 2 ^ k < 2 ^ 24 ∧ (k = 0 ∨ 2 ^ 23 ≤ whole / 2 ^ k) := by
  intro k
  by_cases hw : whole < 2 ^ 24
  · have hk : k = 0 := if_pos hw
    simpa [hk] using hw
  · have hk : k = Nat.log2 whole - 23 := if_neg hw
    have h0 : whole ≠ 0 := by omega
    have hlog : 24 ≤ Nat.log2 whole := (Nat.le_log2 h0).mpr (by omega)
    refine ⟨?_, .inr ?_⟩
    · rw [Nat.div_lt_iff_lt_mul (Nat.two_pow_pos k), ← Nat.pow_add, hk,
        show 24 + (Nat.log2 whole - 23) = Nat.log2 whole + 1 by omega]
      exact Nat.lt_log2_self
    · rw [Nat.le_div_iff_mul_le (Nat.two_pow_pos k), ← Nat.pow_add, hk,
        show 23 + (Nat.log2 whole - 23) = Nat.log2 whole by omega]
      exact Nat.log2_self_le h0

/-- What `f32Round` does: of the two neighbouring codes around the value it takes the nearer, up to infinity's. -/
theorem f32Round_spec (num : Nat) {den : Nat} (hd : 0 < den) :
    ∃ e, codeMag e * den ≤ num ∧ num < codeMag (e + 1) * den ∧
      f32Round num den = min (nearerCode e num den) (255 * 2 ^ 23) := by
  obtain ⟨hn, hk⟩ := roundExponent_significand (num / den)
  rw [f32Round]
  generalize (if num / den < 2 ^ 24 then 0 else Nat.log2 (num / den) - 23) = k at hn hk ⊢
  rw [Nat.div_div_eq_div_mul] at hn hk
  have hunit : 0 < den * 2 ^ k := Nat.mul_pos hd (Nat.two_pow_pos k)
  have hdiv := Nat.div_add_mod num (den * 2 ^ k)
  have hmod := Nat.mod_lt num hunit
  generalize num / (den * 2 ^ k) = n at hn hk hdiv ⊢
  generalize num % (den * 2 ^ k) = r at hdiv hmod ⊢
  have hlo : codeMag (k * 2 ^ 23 + n) * den = den * 2 ^ k * n := by
    rw [codeMag_significand hn.le hk]; ring
  have hhi : codeMag (k * 2 ^ 23 + n + 1) * den = den * 2 ^ k * n + den * 2 ^ k := by
    rw [Nat.add_assoc, codeMag_significand (by omega) (by omega)]; ring
  refine ⟨k * 2 ^ 23 + n, by omega, by omega, congrArg (min · _) ?_⟩
  rw [nearerCode, Nat.add_mul, hlo, hhi]
  split_ifs <;> omega

/-- No code's magnitude, with either sign, lies between those of two neighbouring codes. -/
theorem codeMag_gap {C : Int} {c : Nat} (hC : C.natAbs = codeMag c) (e : Nat) :
    C ≤ codeMag e ∨ (codeMag (e + 1) : Int) ≤ C := by
  rcases Nat.lt_or_ge e c with h | h
  · have hc : codeMag (e + 1) ≤ codeMag c := codeMag_strictMono.monotone h
    have he : codeMag e < codeMag (e + 1) := codeMag_strictMono e.lt_succ_self
    omega
  · have hc : codeMag c ≤ codeMag e := codeMag_strictMono.monotone h
    omega

/-- Nothing outside the gap between two neighbours is nearer to a value in it than the chosen one; what is equally near is
the chosen one itself, or that one's code is even. -/
theorem nearerCode_nearest {e num den : Nat} (hd : 0 < den) (hlo : codeMag e * den ≤ num)
    (hhi : num < codeMag (e + 1) * den) {C : Int} (hC : C ≤ codeMag e ∨ (codeMag (e + 1) : Int) ≤ C) :
    ((codeMag (nearerCode e num den) : Int) * den - num).natAbs ≤ (C * den - num).natAbs ∧
      (((codeMag (nearerCode e num den) : Int) * den - num).natAbs = (C * den - num).natAbs →
        C = codeMag (nearerCode e num den) ∨ nearerCode e num den % 2 = 0) := by
  have hd' : (0 : Int) < den := by omega
  have hout : (C = codeMag e ∧ C * den = codeMag e * den ∨ C * den < codeMag e * den) ∨
      C = codeMag (e + 1) ∧ C * den = codeMag (e + 1) * den ∨ (codeMag (e + 1) : Int) * den < C * den := by
    refine hC.imp (fun h => ?_) (fun h => ?_)
    · exact (Int.le_iff_eq_or_lt.mp h).imp (fun h => ⟨h, by rw [h]⟩) (Int.mul_lt_mul_of_pos_right · hd')
    · exact (Int.le_iff_eq_or_lt.mp h).imp (fun h => ⟨h.symm, by rw [h]⟩) (Int.mul_lt_mul_of_pos_right · hd')
  zify at hlo hhi
  rw [nearerCode, Nat.add_mul]
  split_ifs with hnear htie
  · zify at hnear
    omega
  · zify at htie
    refine ⟨?_, fun _ => .inr (by omega)⟩
    obtain he | he := Nat.mod_two_eq_zero_or_one e
    · rw [he, Nat.add_zero]
      omega
    · rw [he]
      omega
  · zify at hnear htie
    omega

/-! ### Overflow -/

/-- Rounding overflows exactly from half a place past the largest finite value on. -/
theorem f32Round_overflow (num : Nat) {den : Nat} (hd : 0 < den) :
    f32Round num den = 255 * 2 ^ 23 ∧ (2 ^ 25 - 1) * 2 ^ 252 * den ≤ num ∨
      f32Round num den < 255 * 2 ^ 23 ∧ num < (2 ^ 25 - 1) * 2 ^ 252 * den := by
  obtain ⟨e, hlo, hhi, hr⟩ := f32Round_spec num hd
  rw [hr]
  rcases Nat.lt_trichotomy (e + 1) (255 * 2 ^ 23) with he | he | he
  · -- the upper neighbour is finite
    have hmax : codeMag (e + 1) * den ≤ (2 ^ 24 - 1) * 2 ^ 253 * den :=
      Nat.mul_le_mul_right den (codeMag_largest ▸ codeMag_strictMono.monotone (by omega))
    refine .inr ⟨?_, by omega⟩
    rw [nearerCode]
    split_ifs <;> omega
  · -- the upper neighbour is infinity's code, and the lower one is odd
    obtain rfl : e = 255 * 2 ^ 23 - 1 := by omega
    rw [nearerCode, codeMag_largest, he, codeMag_infinity]
    split_ifs <;> omega
  · -- both are past the finite ones
    have hmin : 2 ^ 24 * 2 ^ 253 * den ≤ codeMag e * den :=
      Nat.mul_le_mul_right den (codeMag_infinity ▸ codeMag_strictMono.monotone (by omega))
    refine .inl ⟨?_, by omega⟩
    rw [nearerCode]
    split_ifs <;> omega

theorem f32Round_lt (num : Nat) {den : Nat} (hd : 0 < den) : f32Round num den < 2 ^ 31 := by
  have := f32Round_overflow num hd
  omega

/-! ### The packed value -/

section Pack
variable (neg : Bool) (num : Nat) {den : Nat} (hd : 0 < den)
include hd

theorem f32Pack_toNat : (f32Pack neg num den).toNat = (if neg then 2 ^ 31 else 0) + f32Round num den := by
  have := f32Round_lt num hd
  rw [f32Pack, BitVec.toNat_ofNat, Nat.mod_eq_of_lt]
  split <;> omega

theorem f32Code_pack : f32Code (f32Pack neg num den) = f32Round num den := by
  have := f32Round_lt num hd
  rw [f32Code, f32Pack_toNat neg num hd]
  split <;> omega

theorem f32Neg_pack : f32Neg (f32Pack neg num den) = neg := by
  have := f32Round_lt num hd
  rw [f32Neg, BitVec.msb_eq_decide, f32Pack_toNat neg num hd]
  cases neg with
  | false => exact decide_eq_false (by simpa using this)
  | true => exact decide_eq_true (by simp)

/-- Below half a place past the largest value the packed value is finite. -/
theorem f32Finite_pack_iff : f32Finite (f32Pack neg num den) = true ↔ num < (2 ^ 25 - 1) * 2 ^ 252 * den := by
  have := f32Round_overflow num hd
  rw [f32Finite_iff, f32Code_pack neg num hd]
  omega

/-- From there on it is an infinity. -/
theorem f32Pack_overflow (h : (2 ^ 25 - 1) * 2 ^ 252 * den ≤ num) : f32Pack neg num den = f32Inf neg := by
  have hover := f32Round_overflow num hd
  rw [f32_eq_inf_iff, f32Code_pack neg num hd]
  exact ⟨f32Neg_pack neg num hd, by omega⟩

end Pack

/-! ### Nearest, ties to even -/

/-- `x` is a value nearest to `num/den`, and where it is not the only one, one whose last bit is 0 (R11). It is compared
with every pattern `c`, not only the finite ones, past which `f32Val` goes on rising. -/
def NearestEven (x : F32) (num : Int) (den : Nat) : Prop :=
  ∀ c : F32, (f32Val x * den - num).natAbs ≤ (f32Val c * den - num).natAbs ∧
    ((f32Val x * den - num).natAbs = (f32Val c * den - num).natAbs → f32Val c = f32Val x ∨ x.toNat % 2 = 0)

/-- A value that is packed without overflow is nearest, ties to even. -/
theorem f32Pack_nearest (neg : Bool) (num : Nat) {den : Nat} (hd : 0 < den)
    (hf : f32Finite (f32Pack neg num den) = true) :
    NearestEven (f32Pack neg num den) (signed neg num) den := by
  intro c
  obtain ⟨e, hlo, hhi, hr⟩ := f32Round_spec num hd
  rw [f32Finite_iff, f32Code_pack neg num hd] at hf
  have hr : f32Round num den = nearerCode e num den := by omega
  have hval : f32Val (f32Pack neg num den) = signed neg (codeMag (nearerCode e num den)) := by
    rw [f32Val_eq, f32Neg_pack neg num hd, f32Code_pack neg num hd, hr]
  have heven : (f32Pack neg num den).toNat % 2 = nearerCode e num den % 2 := by
    rw [f32Pack_toNat neg num hd, hr]
    split <;> omega
  have hc : (f32Val c).natAbs = codeMag (f32Code c) := by rw [natAbs_f32Val, f32Mag_eq]
  rw [hval, heven]
  cases neg with
  | false => exact nearerCode_nearest hd hlo hhi (codeMag_gap hc e)
  | true =>
    have hc : (-f32Val c).natAbs = codeMag (f32Code c) := by rw [Int.natAbs_neg, hc]
    obtain ⟨hle, htie⟩ := nearerCode_nearest hd hlo hhi (codeMag_gap hc e)
    simp only [signed, if_true, Int.neg_mul] at hle htie ⊢
    omega

end Sys2Proof.Machine
end

section
/-! PROOF. ArithmeticRoundsToNearest (spec/00_scope.md R11): each operation of binary32 arithmetic on finite values is
one rounding of the exact result; then NaN, the infinities, the order and the signs. -/

open Sys2Proof

namespace Sys2Proof.Machine

variable {a b : F32}

/-! ### Signs of values -/

/-- An integer is its sign put on its magnitude. -/
@[simp] theorem signed_natAbs (n : Int) : signed (decide (n < 0)) n.natAbs = n := by
  by_cases h : n < 0
  · rw [signed, if_pos (decide_eq_true h)]
    omega
  · rw [signed, if_neg (by simpa using h)]
    omega

theorem signed_mul (s t : Bool) (m n : Nat) : signed s m * signed t n = signed (s != t) (m * n) := by
  cases s <;> cases t <;> simp [signed]

theorem signed_mul_right (s : Bool) (m n : Nat) : signed s (m * n) = signed s m * n := by cases s <;> simp [signed]

/-- A rising function of the magnitude keeps the order of signed numbers. -/
theorem signed_lt_signed {f : Nat → Nat} (hf : StrictMono f) (h0 : f 0 = 0) (s t : Bool) (m n : Nat) :
    signed s (f m) < signed t (f n) ↔ signed s m < signed t n := by
  have hlt := hf.lt_iff_lt (a := m) (b := n)
  have hgt := hf.lt_iff_lt (a := n) (b := m)
  have hm := hf.lt_iff_lt (a := 0) (b := m)
  have hn := hf.lt_iff_lt (a := 0) (b := n)
  rw [h0] at hm hn
  cases s <;> cases t <;> simp only [signed, if_true, Bool.false_eq_true, if_false] <;> omega

/-- The sign changed leaves the code alone. -/
theorem f32Code_negate (x : F32) : f32Code (f32Negate x) = f32Code x := by
  rw [f32Code, f32Code, f32Negate, BitVec.toNat_xor, Nat.xor_mod_two_pow]
  exact Nat.xor_zero _

theorem f32Neg_negate (x : F32) : f32Neg (f32Negate x) = !f32Neg x := by
  rw [f32Neg, f32Neg, f32Negate, BitVec.msb_xor]
  exact Bool.xor_true _

theorem f32Val_negate (x : F32) : f32Val (f32Negate x) = -f32Val x := by
  rw [f32Val_eq, f32Val_eq, f32Code_negate, f32Neg_negate]
  cases f32Neg x <;> simp [signed]

theorem f32IsNaN_negate (x : F32) : f32IsNaN (f32Negate x) = f32IsNaN x := by
  rw [Bool.eq_iff_iff, f32IsNaN_iff, f32IsNaN_iff, f32Code_negate]

theorem f32IsZero_of_inf {x : F32} (h : f32IsInf x = true) : f32IsZero x = false := by
  rw [Bool.eq_false_iff, Ne, f32IsZero_iff, f32IsInf_iff.mp h]
  decide

theorem f32Unit_pos : 0 < f32Unit := Nat.two_pow_pos 149

theorem f32Mag_pos {x : F32} (h : f32Val x ≠ 0) : 0 < f32Mag x := by
  rw [← natAbs_f32Val]
  omega

/-- What an operation makes as a NaN is one, whatever its free bits (log 14). -/
theorem f32IsNaN_nan (op : Nat) (a b : F32) : f32IsNaN (f32NaN op a b) = true := by
  have hle : 0x7FC00000 ≤ 0x7FC00000 ||| (Config.nanBits op a b).toNat % 2 ^ 31 := Nat.left_le_or
  rw [f32IsNaN_iff, f32Code, f32NaN, BitVec.toNat_or, Nat.or_mod_two_pow]
  exact Nat.lt_of_lt_of_le (by decide) hle

/-! ### Finite operands: the result is the exact one rounded -/

section Finite
variable (ha : f32Finite a = true) (hb : f32Finite b = true)
include ha hb

theorem f32Add_finite :
    f32Add a b = if f32Val a + f32Val b = 0 then f32Zero (f32Neg a && f32Neg b)
      else f32Pack (decide (f32Val a + f32Val b < 0)) (f32Val a + f32Val b).natAbs 1 := by
  simp [f32Add, f32AddNumbers, f32IsNaN_of_finite, f32IsInf_of_finite, ha, hb]

theorem f32Mul_finite : f32Mul a b = f32Pack (f32Neg a != f32Neg b) (f32Mag a * f32Mag b) f32Unit := by
  simp [f32Mul, f32IsNaN_of_finite, f32IsInf_of_finite, ha, hb]

theorem f32Div_finite (h0 : f32Val b ≠ 0) :
    f32Div a b = f32Pack (f32Neg a != f32Neg b) (f32Mag a * f32Unit) (f32Mag b) := by
  simp [f32Div, f32IsNaN_of_finite, f32IsInf_of_finite, ha, hb, f32IsZero_of_val_ne h0]

theorem f32Add_nearest (hf : f32Finite (f32Add a b) = true) : NearestEven (f32Add a b) (f32Val a + f32Val b) 1 := by
  rw [f32Add_finite ha hb] at hf ⊢
  split_ifs at hf ⊢ with h0
  · intro c
    have hz : f32Val (f32Zero (f32Neg a && f32Neg b)) = 0 := by cases f32Neg a && f32Neg b <;> rfl
    rw [h0, hz]
    exact ⟨by simp, fun _ => .inr (by cases f32Neg a && f32Neg b <;> rfl)⟩
  · simpa using f32Pack_nearest _ _ one_pos hf

theorem f32Mul_nearest (hf : f32Finite (f32Mul a b) = true) :
    NearestEven (f32Mul a b) (f32Val a * f32Val b) f32Unit := by
  rw [f32Mul_finite ha hb] at hf ⊢
  rw [f32Val_signed, f32Val_signed, signed_mul]
  exact f32Pack_nearest _ _ f32Unit_pos hf

/-- A quotient is compared after multiplying by the divisor, whose sign does not matter. -/
theorem f32Div_nearest (h0 : f32Val b ≠ 0) (hf : f32Finite (f32Div a b) = true) (c : F32) :
    (f32Val (f32Div a b) * f32Val b - f32Val a * f32Unit).natAbs ≤ (f32Val c * f32Val b - f32Val a * f32Unit).natAbs ∧
      ((f32Val (f32Div a b) * f32Val b - f32Val a * f32Unit).natAbs = (f32Val c * f32Val b - f32Val a * f32Unit).natAbs →
        f32Val c = f32Val (f32Div a b) ∨ (f32Div a b).toNat % 2 = 0) := by
  have hpos : 0 < f32Mag b := f32Mag_pos h0
  have hclear (x : Int) : (x * f32Val b - f32Val a * f32Unit).natAbs =
      (x * f32Mag b - signed (f32Neg a != f32Neg b) (f32Mag a * f32Unit)).natAbs := by
    rw [f32Val_signed, f32Val_signed]
    cases f32Neg a <;> cases f32Neg b <;> simp [signed] <;> omega
  rw [hclear, hclear]
  rw [f32Div_finite ha hb h0] at hf ⊢
  exact f32Pack_nearest _ _ hpos hf c

/-! Overflow, and the signs of results. -/

theorem f32Add_zero_sum (h : f32Val a + f32Val b = 0) : f32Add a b = f32Zero (f32Neg a && f32Neg b) := by
  rw [f32Add_finite ha hb, if_pos h]

theorem f32Add_no_overflow (h : (f32Val a + f32Val b).natAbs < (2 ^ 25 - 1) * 2 ^ 252) :
    f32Finite (f32Add a b) = true := by
  rw [f32Add_finite ha hb]
  split_ifs
  · cases f32Neg a && f32Neg b <;> rfl
  · rwa [f32Finite_pack_iff _ _ one_pos, mul_one]

theorem f32Add_overflow (h : (2 ^ 25 - 1) * 2 ^ 252 ≤ (f32Val a + f32Val b).natAbs) :
    f32Add a b = f32Inf (decide (f32Val a + f32Val b < 0)) := by
  rw [f32Add_finite ha hb, if_neg (by omega), f32Pack_overflow _ _ one_pos (by rwa [mul_one])]

theorem f32Mul_no_overflow (h : (f32Val a * f32Val b).natAbs < (2 ^ 25 - 1) * 2 ^ 252 * 2 ^ 149) :
    f32Finite (f32Mul a b) = true := by
  rw [Int.natAbs_mul, natAbs_f32Val, natAbs_f32Val] at h
  rw [f32Mul_finite ha hb]
  exact (f32Finite_pack_iff _ _ f32Unit_pos).mpr h

theorem f32Mul_overflow (h : (2 ^ 25 - 1) * 2 ^ 252 * 2 ^ 149 ≤ (f32Val a * f32Val b).natAbs) :
    f32Mul a b = f32Inf (f32Neg a != f32Neg b) := by
  rw [Int.natAbs_mul, natAbs_f32Val, natAbs_f32Val] at h
  rw [f32Mul_finite ha hb]
  exact f32Pack_overflow _ _ f32Unit_pos h

theorem f32Mul_sign : f32Neg (f32Mul a b) = (f32Neg a != f32Neg b) := by
  rw [f32Mul_finite ha hb, f32Neg_pack _ _ f32Unit_pos]

theorem f32Div_no_overflow (h0 : f32Val b ≠ 0)
    (h : (f32Val a).natAbs * 2 ^ 149 < (2 ^ 25 - 1) * 2 ^ 252 * (f32Val b).natAbs) : f32Finite (f32Div a b) = true := by
  rw [natAbs_f32Val, natAbs_f32Val] at h
  rwa [f32Div_finite ha hb h0, f32Finite_pack_iff _ _ (f32Mag_pos h0)]

theorem f32Div_overflow (h0 : f32Val b ≠ 0)
    (h : (2 ^ 25 - 1) * 2 ^ 252 * (f32Val b).natAbs ≤ (f32Val a).natAbs * 2 ^ 149) :
    f32Div a b = f32Inf (f32Neg a != f32Neg b) := by
  rw [natAbs_f32Val, natAbs_f32Val] at h
  rw [f32Div_finite ha hb h0]
  exact f32Pack_overflow _ _ (f32Mag_pos h0) h

theorem f32Div_sign (h0 : f32Val b ≠ 0) : f32Neg (f32Div a b) = (f32Neg a != f32Neg b) := by
  rw [f32Div_finite ha hb h0, f32Neg_pack _ _ (f32Mag_pos h0)]

/-- A non-zero value over zero is an infinity. -/
theorem f32Div_zero (h0 : f32Val b = 0) (ha0 : f32Val a ≠ 0) : f32Div a b = f32Inf (f32Neg a != f32Neg b) := by
  simp [f32Div, f32IsNaN_of_finite, f32IsInf_of_finite, ha, hb, f32IsZero_of_val_ne ha0, f32Val_eq_zero.mp h0]

/-- Zero over zero is NaN. -/
theorem f32Div_zero_zero (h0 : f32Val b = 0) (ha0 : f32Val a = 0) : f32IsNaN (f32Div a b) = true := by
  simp [f32Div, f32IsNaN_of_finite, f32IsInf_of_finite, ha, hb, f32Val_eq_zero.mp h0, f32Val_eq_zero.mp ha0,
    f32IsNaN_nan]

/-- The order of finite values is that of their values. -/
theorem f32Lt_finite : f32Lt a b = decide (f32Val a < f32Val b) := by
  simp only [f32Lt, f32IsNaN_of_finite ha, f32IsNaN_of_finite hb, Bool.not_false, Bool.true_and, f32Val_eq,
    signed_lt_signed codeMag_strictMono codeMag_zero]
  rfl

end Finite

/-! ### Conversion of integers -/

theorem f32OfInt_nearest {n : Int} (hf : f32Finite (f32OfInt n) = true) : NearestEven (f32OfInt n) (n * 2 ^ 149) 1 := by
  have h := f32Pack_nearest _ _ one_pos hf
  rwa [signed_mul_right, signed_natAbs] at h

theorem f32OfInt_no_overflow {n : Int} (h : n.natAbs * 2 ^ 149 < (2 ^ 25 - 1) * 2 ^ 252) :
    f32Finite (f32OfInt n) = true := by
  rwa [f32OfInt, f32Finite_pack_iff _ _ one_pos, mul_one]

theorem f32OfInt_overflow {n : Int} (h : (2 ^ 25 - 1) * 2 ^ 252 ≤ n.natAbs * 2 ^ 149) :
    f32OfInt n = f32Inf (decide (n < 0)) := by
  rw [f32OfInt, f32Pack_overflow _ _ one_pos (by rwa [mul_one])]

/-! ### NaN -/

/-- NaN operands give NaN and are below nothing. -/
theorem f32_nan_operand (h : f32IsNaN a = true ∨ f32IsNaN b = true) :
    f32IsNaN (f32Add a b) = true ∧ f32IsNaN (f32Mul a b) = true ∧ f32IsNaN (f32Div a b) = true ∧
      f32Lt a b = false := by
  rw [← Bool.or_eq_true] at h
  refine ⟨?_, ?_, ?_, ?_⟩
  · rw [f32Add, if_pos h, f32IsNaN_nan]
  · simp only [f32Mul, h, if_true, f32IsNaN_nan]
  · simp only [f32Div, h, if_true, f32IsNaN_nan]
  · rw [f32Lt, ← Bool.not_or, h]
    rfl

/-- A difference is the sum with the second sign changed, or both are NaN. -/
theorem f32Sub_eq_add_negate (a b : F32) :
    f32IsNaN (f32Sub a b) = true ∧ f32IsNaN (f32Add a (f32Negate b)) = true ∨ f32Sub a b = f32Add a (f32Negate b) := by
  rw [f32Sub, f32Add, f32IsNaN_negate]
  split_ifs
  · exact .inl ⟨f32IsNaN_nan .., f32IsNaN_nan ..⟩
  · rw [f32AddNumbers, f32AddNumbers]
    split_ifs
    · exact .inl ⟨f32IsNaN_nan .., f32IsNaN_nan ..⟩
    all_goals exact .inr rfl

theorem f32Sub_finite (ha : f32Finite a = true) (hb : f32Finite b = true) : f32Sub a b = f32Add a (f32Negate b) := by
  simp [f32Sub, f32Add, f32IsNaN_negate, f32AddNumbers, f32IsNaN_of_finite, f32IsInf_of_finite, ha, hb]

theorem f32Sub_nearest (ha : f32Finite a = true) (hb : f32Finite b = true) (hf : f32Finite (f32Sub a b) = true) :
    NearestEven (f32Sub a b) (f32Val a - f32Val b) 1 := by
  rw [f32Sub_finite ha hb] at hf ⊢
  rw [sub_eq_add_neg, ← f32Val_negate]
  exact f32Add_nearest ha (by rwa [f32Finite_iff, f32Code_negate, ← f32Finite_iff]) hf

/-! ### Infinities -/

section Infinite
variable (ha : f32IsInf a = true)
include ha

/-- An infinity and its opposite have no sum. -/
theorem f32Add_inf_opposite :
    f32IsNaN (f32Add a (f32Negate a)) = true ∧ f32IsNaN (f32Add (f32Negate a) a) = true := by
  have hi : f32IsInf (f32Negate a) = true := by rwa [f32IsInf_iff, f32Code_negate, ← f32IsInf_iff]
  simp [f32Add, f32AddNumbers, f32IsNaN_of_inf, ha, hi, f32Neg_negate, f32IsNaN_nan]

/-- An infinity stays one in a sum with anything else that is no NaN. -/
theorem f32Add_inf (hn : f32IsNaN b = false) (hb : b ≠ f32Negate a) : f32Add a b = a ∧ f32Add b a = a := by
  by_cases hi : f32IsInf b = true
  · have hs : f32Neg b = f32Neg a := by
      by_contra hs
      refine hb (f32_ext ?_ ?_)
      · rw [f32Neg_negate]
        exact Bool.eq_not.mpr hs
      · rw [f32Code_negate, f32IsInf_iff.mp hi, f32IsInf_iff.mp ha]
    have hab : b = a := f32_ext hs (by rw [f32IsInf_iff.mp hi, f32IsInf_iff.mp ha])
    simp [hab, f32Add, f32AddNumbers, f32IsNaN_of_inf, ha]
  · simp [f32Add, f32AddNumbers, f32IsNaN_of_inf, ha, hn, hi]

theorem f32Mul_inf_zero (hz : f32IsZero b = true) : f32IsNaN (f32Mul a b) = true ∧ f32IsNaN (f32Mul b a) = true := by
  have hn : f32IsNaN b = false := f32IsNaN_of_finite (f32Finite_iff.mpr (by rw [f32IsZero_iff.mp hz]; decide))
  simp [f32Mul, f32IsNaN_of_inf, ha, hn, hz, f32IsNaN_nan]

theorem f32Mul_inf (hn : f32IsNaN b = false) (hz : f32IsZero b = false) :
    f32Mul a b = f32Inf (f32Neg a != f32Neg b) ∧ f32Mul b a = f32Inf (f32Neg a != f32Neg b) := by
  simp [f32Mul, f32IsNaN_of_inf, ha, hn, hz, f32IsZero_of_inf ha, bne_comm (a := f32Neg b)]

theorem f32Div_inf_inf (hb : f32IsInf b = true) : f32IsNaN (f32Div a b) = true := by
  simp [f32Div, f32IsNaN_of_inf, ha, hb, f32IsNaN_nan]

theorem f32Div_inf (hn : f32IsNaN b = false) (hb : f32IsInf b = false) :
    f32Div a b = f32Inf (f32Neg a != f32Neg b) ∧ f32Div b a = f32Zero (f32Neg a != f32Neg b) := by
  simp [f32Div, f32IsNaN_of_inf, ha, hn, hb, bne_comm (a := f32Neg b)]

end Infinite

/-- The infinities bound the order of what is no NaN. -/
theorem f32Lt_infinity (h : f32IsNaN a = false) :
    f32Lt a (f32Inf false) = decide (a ≠ f32Inf false) ∧ f32Lt (f32Inf true) a = decide (a ≠ f32Inf true) ∧
      f32Lt (f32Inf false) a = false ∧ f32Lt a (f32Inf true) = false := by
  have hmax : f32Code a ≤ 255 * 2 ^ 23 := by
    rw [Bool.eq_false_iff, Ne, f32IsNaN_iff] at h
    omega
  have hord (x : F32) : f32Order x = signed (f32Neg x) (f32Code x) := rfl
  have hnan (s : Bool) : f32IsNaN (f32Inf s) = false := by cases s <;> rfl
  simp only [f32Lt, h, hnan, hord, f32Neg_inf, f32Code_inf, Ne, f32_eq_inf_iff, Bool.not_false, Bool.true_and,
    decide_eq_decide, decide_eq_false_iff_not]
  cases f32Neg a <;> simp [signed] <;> omega

/-! ### The magnitude -/

theorem f32Abs_toNat (x : F32) : (f32Abs x).toNat = f32Code x := by
  rw [f32Abs, BitVec.toNat_and]
  exact Nat.and_two_pow_sub_one_eq_mod x.toNat 31

theorem f32Val_abs (x : F32) : f32Val (f32Abs x) = (f32Val x).natAbs := by
  have hlt := f32Code_lt x
  have hneg : f32Neg (f32Abs x) = false := by
    rw [f32Neg, BitVec.msb_eq_decide, f32Abs_toNat]
    exact decide_eq_false (by omega)
  rw [natAbs_f32Val, f32Mag_eq, f32Val_eq, hneg, f32Code, f32Abs_toNat, Nat.mod_eq_of_lt hlt]
  rfl

/-! ### The obligation -/

theorem f32Inf_bne (s t : Bool) : f32Inf (s != t) = if s = t then 0x7F800000#32 else 0xFF800000#32 := by
  cases s <;> cases t <;> rfl

theorem f32Zero_bne (s t : Bool) : f32Zero (s != t) = if s = t then 0#32 else 0x80000000#32 := by
  cases s <;> cases t <;> rfl

/-- Settles O27, clause by clause. -/
theorem arithmeticRoundsToNearest : Obligations.ArithmeticRoundsToNearest := by
  unfold Obligations.ArithmeticRoundsToNearest
  intro a b c n
  refine ⟨fun ha hb _ => ⟨fun hf => ?_, fun hf => ?_, fun hf => ?_, fun h0 hf => ?_, fun hf => ?_⟩, ?_, ?_, ?_,
    f32_nan_operand, fun ha hn => ⟨?_, fun hb => f32Add_inf ha hn hb, f32Mul_inf_zero ha, fun hz => ?_, f32Div_inf_inf ha,
      fun hb => ?_⟩, f32Lt_infinity, f32Abs_toNat a, f32Val_abs a⟩
  · simpa only [Nat.cast_one, mul_one] using f32Add_nearest ha hb hf c
  · simpa only [Nat.cast_one, mul_one] using f32Sub_nearest ha hb hf c
  · exact f32Mul_nearest ha hb hf c
  · exact f32Div_nearest ha hb h0 hf c
  · simpa only [Nat.cast_one, mul_one] using f32OfInt_nearest hf c
  · intro limit infinity ha hb
    exact ⟨f32Add_no_overflow ha hb, f32Add_overflow ha hb, f32Add_zero_sum ha hb, f32Mul_no_overflow ha hb,
      f32Mul_overflow ha hb, f32Mul_sign ha hb,
      fun h0 => ⟨f32Div_no_overflow ha hb h0, f32Div_overflow ha hb h0, f32Div_sign ha hb h0⟩,
      fun h0 => ⟨f32Div_zero ha hb h0, f32Div_zero_zero ha hb h0⟩, f32OfInt_no_overflow, f32OfInt_overflow,
      f32Lt_finite ha hb⟩
  · obtain ⟨hs, ha⟩ | h := f32Sub_eq_add_negate a b
    · exact hs.trans ha.symm
    · exact congrArg f32IsNaN h
  · obtain ⟨hs, -⟩ | h := f32Sub_eq_add_negate a b
    · exact fun hn => absurd hs (by simp [hn])
    · exact fun _ => h
  · rintro rfl
    exact f32Add_inf_opposite ha
  · rw [← f32Inf_bne]
    exact f32Mul_inf ha hn hz
  · rw [← f32Inf_bne, ← f32Zero_bne]
    exact f32Div_inf ha hn hb

end Sys2Proof.Machine
end

section
/-! PROOF. ConversionsToIntegers (spec/00_scope.md R11): `round` and `trunc` on the magnitude, and the integers that
binary32 represents exactly. -/

open Sys2Proof

namespace Sys2Proof.Machine

/-! ### round and trunc -/

/-- Of two numbers with one sign, the first a multiple of `u`, the distance is that of the magnitudes. -/
theorem natAbs_signed_sub (s : Bool) (q m u : Nat) :
    (signed s q * u - signed s m).natAbs = ((q * u : Nat) - m : Int).natAbs := by
  rw [← signed_mul_right]
  cases s
  · rfl
  · simp only [signed, if_true]
    omega

theorem f32RoundAway_finite {x : F32} (h : f32Finite x = true) :
    f32RoundAway x = signed (f32Neg x) ((2 * f32Mag x + f32Unit) / (2 * f32Unit)) := if_pos h

/-- `round` is within one half, and at one half has the larger magnitude. -/
theorem f32RoundAway_nearest {x : F32} (h : f32Finite x = true) :
    2 * (f32RoundAway x * f32Unit - f32Val x).natAbs ≤ f32Unit ∧
      (2 * (f32RoundAway x * f32Unit - f32Val x).natAbs = f32Unit →
        (f32Val x).natAbs < (f32RoundAway x * f32Unit).natAbs) := by
  rw [f32RoundAway_finite h, natAbs_f32Val, f32Val_signed, natAbs_signed_sub, ← signed_mul_right, natAbs_signed, f32Unit]
  omega

/-- `trunc` is within one, and no larger in magnitude. -/
theorem f32Trunc_toward_zero (x : F32) :
    (f32Trunc x * f32Unit).natAbs ≤ (f32Val x).natAbs ∧ (f32Val x - f32Trunc x * f32Unit).natAbs < f32Unit := by
  rw [← Int.natAbs_neg (f32Val x - _), Int.neg_sub, f32Trunc, natAbs_f32Val, f32Val_signed, natAbs_signed_sub,
    ← signed_mul_right, natAbs_signed, f32Unit]
  omega

/-! ### Integers of at most 24 bits -/

/-- A value that has a code is rounded to it. -/
theorem f32Round_codeMag {e : Nat} (he : e < 255 * 2 ^ 23) : f32Round (codeMag e) 1 = e := by
  obtain ⟨e', hlo, hhi, hr⟩ := f32Round_spec (codeMag e) one_pos
  rw [mul_one, codeMag_strictMono.le_iff_le] at hlo
  rw [mul_one, codeMag_strictMono.lt_iff_lt] at hhi
  obtain rfl : e' = e := by omega
  have hlt : codeMag e' < codeMag (e' + 1) := codeMag_strictMono e'.lt_succ_self
  rw [hr, nearerCode, if_neg (by omega), if_neg (by omega), Nat.min_eq_left he.le]

/-- Integers of magnitude at most `2^24` have a finite code. -/
theorem exists_code_of_small {m : Nat} (hm : m ≤ 2 ^ 24) : ∃ e, e < 255 * 2 ^ 23 ∧ codeMag e = m * f32Unit := by
  rcases Nat.eq_zero_or_pos m with rfl | hpos
  · exact ⟨0, by decide, by simp⟩
  · -- shift the integer up until its significand has 24 bits
    have hlo : 2 ^ 23 ≤ m * 2 ^ (23 - Nat.log2 m) :=
      calc 2 ^ 23 ≤ 2 ^ (Nat.log2 m + (23 - Nat.log2 m)) := Nat.pow_le_pow_right two_pos (by omega)
        _ = 2 ^ Nat.log2 m * 2 ^ (23 - Nat.log2 m) := Nat.pow_add ..
        _ ≤ m * 2 ^ (23 - Nat.log2 m) := Nat.mul_le_mul_right _ (Nat.log2_self_le hpos.ne')
    have hhi : m * 2 ^ (23 - Nat.log2 m) ≤ 2 ^ 24 := by
      by_cases hlog : Nat.log2 m ≤ 23
      · calc m * 2 ^ (23 - Nat.log2 m) ≤ 2 ^ (Nat.log2 m + 1) * 2 ^ (23 - Nat.log2 m) :=
              Nat.mul_le_mul_right _ Nat.lt_log2_self.le
          _ = 2 ^ 24 := by rw [← Nat.pow_add, show Nat.log2 m + 1 + (23 - Nat.log2 m) = 24 by omega]
      · rwa [show 23 - Nat.log2 m = 0 by omega, Nat.pow_zero, mul_one]
    refine ⟨(149 - (23 - Nat.log2 m)) * 2 ^ 23 + m * 2 ^ (23 - Nat.log2 m), by omega, ?_⟩
    rw [codeMag_significand hhi (.inr hlo), Nat.mul_assoc, ← Nat.pow_add,
      show 23 - Nat.log2 m + (149 - (23 - Nat.log2 m)) = 149 by omega, f32Unit]

/-- Such an integer is converted exactly. -/
theorem f32OfInt_exact {n : Int} (hn : n.natAbs ≤ 2 ^ 24) :
    f32Finite (f32OfInt n) = true ∧ f32Neg (f32OfInt n) = decide (n < 0) ∧ f32Mag (f32OfInt n) = n.natAbs * f32Unit := by
  obtain ⟨e, he, hmag⟩ := exists_code_of_small hn
  rw [f32Finite_iff, f32Mag_eq, f32OfInt, ← hmag, f32Code_pack _ _ one_pos, f32Neg_pack _ _ one_pos, f32Round_codeMag he]
  exact ⟨he, rfl, rfl⟩

/-- It survives the way back by `round` and by `trunc`. -/
theorem f32OfInt_round_trip {n : Int} (hn : n.natAbs ≤ 2 ^ 24) :
    f32Finite (f32OfInt n) = true ∧ f32RoundAway (f32OfInt n) = n ∧ f32Trunc (f32OfInt n) = n := by
  obtain ⟨hf, hs, hm⟩ := f32OfInt_exact hn
  have hround : (2 * (n.natAbs * f32Unit) + f32Unit) / (2 * f32Unit) = n.natAbs := by rw [f32Unit]; omega
  refine ⟨hf, ?_, ?_⟩
  · rw [f32RoundAway_finite hf, hs, hm, hround, signed_natAbs]
  · rw [f32Trunc, hs, hm, Nat.mul_div_cancel _ f32Unit_pos, signed_natAbs]

/-- Settles O28: `round`, `trunc`, and the small integers. -/
theorem conversionsToIntegers : Obligations.ConversionsToIntegers := by
  unfold Obligations.ConversionsToIntegers
  intro x n hx
  obtain ⟨hle, htie⟩ := f32RoundAway_nearest hx
  obtain ⟨hmag, hlt⟩ := f32Trunc_toward_zero x
  exact ⟨hle, htie, hmag, hlt, f32OfInt_round_trip⟩

end Sys2Proof.Machine
end

section
/-! PROOF. StepKeepsTheQueueBoundAndThePlanes (spec/10_state.md R24, R30): which steps touch the queue, the in-flight slot
or the buffer ids at all, and then the bound and the ids through each of those. -/

open Sys2Proof Sys2Proof.Safety

namespace Sys2Proof.Machine

variable {s t : State}

/-! ### Which steps touch the queue, the slot and the ids -/

/-- Neither the queue, the in-flight slot nor the buffer ids differ between the two states. -/
structure SameQueueAndPlanes (s t : State) : Prop where
  q : t.q = s.q
  frSlot : t.frSlot = s.frSlot
  readId : t.readId = s.readId
  writeId : t.writeId = s.writeId

/-- A render pass writes lines, never messages or ids (R132). -/
theorem render_sameQueueAndPlanes (h : render? s = some t) : SameQueueAndPlanes s t := by
  obtain ⟨-, ⟨-, rfl⟩ | ⟨g, lb, ext, bus, mode, -, -, -, -, -, ⟨-, rfl⟩ | ⟨prims, phase, f, -, rfl⟩⟩⟩ := render_spec h
  all_goals exact ⟨rfl, rfl, rfl, rfl⟩

/-- Nor does a scanline read (R161). -/
theorem scanlineRead_sameQueueAndPlanes (h : scanlineRead? s = some t) : SameQueueAndPlanes s t := by
  obtain ⟨-, -, ⟨-, rfl⟩ | ⟨g, -, ⟨px, bus, draws, -, -, rfl⟩ | ⟨x, y, -, -, rfl⟩⟩⟩ := scanlineRead_spec h
  all_goals exact ⟨rfl, rfl, rfl, rfl⟩

theorem renderTick_spec (h : renderTick? s = some t) :
    s.aPhase = .idle ∧ s.tickReq = true ∧ t = { s with tickReq := false, aPhase := .drain } := by
  obtain ⟨⟨hp, hr⟩, ht⟩ := Option.ite_none_right_eq_some.mp h
  exact ⟨hp, hr, (Option.some.inj ht).symm⟩

theorem resumeB_spec (h : resumeB? s = some t) :
    s.bPhase = .waitTick ∧ s.tickDone = true ∧ t = { s with tickDone := false, bPhase := .read } := by
  obtain ⟨⟨hp, hd⟩, ht⟩ := Option.ite_none_right_eq_some.mp h
  exact ⟨hp, hd, (Option.some.inj ht).symm⟩

/-- Only the framer's two operations, `pop` and `dispatch` can touch the queue, the slot or the ids. -/
theorem StepCase.sameQueueAndPlanes_or (h : StepCase s t) :
    SameQueueAndPlanes s t ∨ deliver? s = some t ∨ transferComplete? s = some t ∨ pop? s = some t ∨ dispatch? s = some t := by
  cases h with
  | deliver h => exact .inr (.inl h)
  | complete h => exact .inr (.inr (.inl h))
  | pop _ h => exact .inr (.inr (.inr (.inl h)))
  | dispatch _ h => exact .inr (.inr (.inr (.inr h)))
  | render h => exact .inl (render_sameQueueAndPlanes h)
  | scanlineRead h => exact .inl (scanlineRead_sameQueueAndPlanes h)
  | renderTick h => obtain ⟨-, -, rfl⟩ := renderTick_spec h; exact .inl ⟨rfl, rfl, rfl, rfl⟩
  | resume h => obtain ⟨-, -, rfl⟩ := resumeB_spec h; exact .inl ⟨rfl, rfl, rfl, rfl⟩
  | getSlot h => obtain ⟨-, req, phase, -, rfl⟩ := getSlot_spec h; exact .inl ⟨rfl, rfl, rfl, rfl⟩
  | submit h => obtain ⟨slot, -, -, rfl⟩ := submit_spec h; exact .inl ⟨rfl, rfl, rfl, rfl⟩
  | wait h | framerInit _ h | drained _ _ _ h | hostSend _ h | hostTake h | hostLose _ h =>
    subst h; exact .inl ⟨rfl, rfl, rfl, rfl⟩

/-- `pop` takes the oldest message (R101). -/
theorem pop_spec (h : pop? s = some t) : ∃ m rest, s.q = m :: rest ∧ t = { s with q := rest, aMsg := some m } := by
  rw [pop?] at h
  split at h
  · cases h
  · exact ⟨_, _, ‹_›, (Option.some.inj h).symm⟩

/-- `dispatch` leaves the queue and the slot alone; it keeps the ids or exchanges them (R107, R117). -/
theorem dispatch_queue_and_planes (h : dispatch? s = some t) :
    t.q = s.q ∧ t.frSlot = s.frSlot ∧
      ((t.readId = s.readId ∧ t.writeId = s.writeId) ∨ (t.readId = s.writeId ∧ t.writeId = s.readId)) := by
  obtain ⟨m, -, ⟨k, -, hk⟩ | ⟨-, rfl⟩⟩ := dispatch_spec h
  · obtain ⟨log, tx, mode, prims, color, r, w, hids, rfl⟩ := runHandler_frame hk
    exact ⟨rfl, rfl, hids.imp_right And.right⟩
  · exact ⟨rfl, rfl, .inl ⟨rfl, rfl⟩⟩

/-! ### The bound (R24) -/

/-- The places a slot in flight claims in the queue: one, unless it is a scratch slot (R98). -/
def claimed : Option InFlight → Nat
  | some f => if f.discard then 0 else 1
  | none => 0

theorem queueBounded_iff : queueBounded s ↔ s.q.length + claimed s.frSlot ≤ 32 := Iff.rfl

/-- The bound is one of the queue's length and the slot's claim alone. -/
theorem queueBounded_of_le (hs : queueBounded s) (h : t.q.length + claimed t.frSlot ≤ s.q.length + claimed s.frSlot) :
    queueBounded t := queueBounded_iff.mpr (h.trans (queueBounded_iff.mp hs))

theorem queueBounded_congr (hs : queueBounded s) (hq : t.q = s.q) (hf : t.frSlot = s.frSlot) : queueBounded t :=
  queueBounded_of_le hs (by rw [hq, hf])

/-- A byte put into the slot leaves it a scratch slot or not (R84). -/
theorem InFlight.putByte_discard (tgt : Target) (i : Nat) (b : Byte) (f : InFlight) :
    (f.putByte tgt i b).discard = f.discard := by
  cases tgt with
  | hdr => rw [InFlight.putByte]; split <;> rfl
  | _ => rfl

theorem claimed_map_putByte (tgt : Target) (i : Nat) (b : Byte) (slot : Option InFlight) :
    claimed (slot.map (InFlight.putByte tgt i b)) = claimed slot := by
  cases slot with
  | none => rfl
  | some f => simp only [Option.map_some, claimed, InFlight.putByte_discard]

theorem claimed_putTarget (tgt : Target) (b : Byte) (s : State) : claimed (s.putTarget tgt b).frSlot = claimed s.frSlot := by
  cases tgt with
  | tok => rfl
  | crc => rw [State.putTarget]; split_ifs <;> rfl
  | hdr | pay => exact claimed_map_putByte _ _ _ _

theorem deliver_queue_claim (h : deliver? s = some t) : t.q = s.q ∧ claimed t.frSlot = claimed s.frSlot := by
  refine ⟨?_, ?_⟩
  · obtain ⟨rx, tok, c0, c1, slot, crc, n, rfl⟩ := deliver_frame h
    rfl
  · rw [deliver?] at h
    split at h
    · obtain ⟨-, ht⟩ := Option.ite_none_right_eq_some.mp h
      rw [← Option.some.inj ht]
      exact claimed_putTarget _ _ _
    · cases h

/-- A slot is real only where a place is left for it (R98). -/
theorem claimed_allocSlot (s : State) : claimed s.allocSlot.frSlot = if s.q.length < 32 then 1 else 0 := by
  by_cases h : s.q.length < 32 <;> simp [State.allocSlot, claimed, Config.queueCap, h]

theorem queueBounded_allocSlot (h : queueBounded s) : queueBounded s.allocSlot := by
  rw [queueBounded_iff] at h ⊢
  have hq : s.allocSlot.q = s.q := rfl
  rw [hq, claimed_allocSlot]
  split <;> omega

/-- A stored message takes the place its slot claimed (R99). -/
theorem queueBounded_storeSlot (h : queueBounded s) : queueBounded s.storeSlot := by
  refine queueBounded_of_le h ?_
  rw [State.storeSlot]
  cases hf : s.frSlot with
  | none => simp [hf]
  | some f => cases hd : f.discard <;> simp [claimed, hd]

/-- A dropped slot claims nothing (R100). -/
theorem queueBounded_dropSlot (h : queueBounded s) : queueBounded s.dropSlot :=
  queueBounded_of_le h (Nat.add_le_add_left (Nat.zero_le _) _)

theorem queueBounded_awaitToken (h : queueBounded s) : queueBounded (awaitToken s) := queueBounded_congr h rfl rfl

theorem queueBounded_completeToken (h : queueBounded s) : queueBounded (completeToken s) := by
  rw [completeToken]
  split
  · exact queueBounded_congr (queueBounded_allocSlot (s := s.crcClear) (queueBounded_congr h rfl rfl)) rfl rfl
  · exact queueBounded_awaitToken h

theorem queueBounded_completeHeaderCrc (h : queueBounded s) : queueBounded (completeHeaderCrc s) := by
  obtain ⟨draws, hsize⟩ := slotSize_frame s
  have hu : queueBounded (slotSize s).2 := by rw [hsize]; exact queueBounded_congr h rfl rfl
  rw [completeHeaderCrc]
  generalize slotSize s = read at hu ⊢
  obtain ⟨size, u⟩ := read
  dsimp only
  split
  · split
    · exact queueBounded_awaitToken (queueBounded_storeSlot hu)
    · exact queueBounded_congr hu rfl rfl
  · exact queueBounded_awaitToken (queueBounded_dropSlot hu)

theorem queueBounded_completePayloadCrc (h : queueBounded s) : queueBounded (completePayloadCrc s) := by
  rw [completePayloadCrc]
  split
  · exact queueBounded_awaitToken (queueBounded_storeSlot h)
  · exact queueBounded_awaitToken (queueBounded_dropSlot h)

/-- Every transition of R94 keeps the bound. -/
theorem queueBounded_complete (hs : queueBounded s) (h : complete? s = some t) : queueBounded t := by
  rw [complete?] at h
  split at h <;> cases h
  · exact queueBounded_completeToken hs
  · exact queueBounded_congr hs rfl rfl
  · exact queueBounded_completeHeaderCrc hs
  · exact queueBounded_congr hs rfl rfl
  · exact queueBounded_completePayloadCrc hs

theorem queueBounded_transferComplete (hs : queueBounded s) (h : transferComplete? s = some t) : queueBounded t := by
  rw [transferComplete?] at h
  split at h
  · exact queueBounded_complete (s := { s with frArmed := none }) (queueBounded_congr hs rfl rfl)
      (Option.ite_none_right_eq_some.mp h).2
  · cases h

theorem StepCase.keeps_queueBounded (h : StepCase s t) (hs : queueBounded s) : queueBounded t := by
  rcases h.sameQueueAndPlanes_or with h | h | h | h | h
  · exact queueBounded_congr hs h.q h.frSlot
  · obtain ⟨hq, hc⟩ := deliver_queue_claim h
    exact queueBounded_of_le hs (by rw [hq, hc])
  · exact queueBounded_transferComplete hs h
  · obtain ⟨m, rest, hq, rfl⟩ := pop_spec h
    exact queueBounded_of_le hs (Nat.add_le_add_right (by simp [hq]) _)
  · obtain ⟨hq, hf, -⟩ := dispatch_queue_and_planes h
    exact queueBounded_congr hs hq hf

/-! ### The buffer ids (R30) -/

/-- A step keeps the ids or exchanges them (R155). -/
theorem StepCase.planes_kept_or_exchanged (h : StepCase s t) :
    (t.readId = s.readId ∧ t.writeId = s.writeId) ∨ (t.readId = s.writeId ∧ t.writeId = s.readId) := by
  rcases h.sameQueueAndPlanes_or with h | h | h | h | h
  · exact .inl ⟨h.readId, h.writeId⟩
  · obtain ⟨rx, tok, c0, c1, slot, crc, n, rfl⟩ := deliver_frame h
    exact .inl ⟨rfl, rfl⟩
  · obtain ⟨phase, armed, n, crc, expected, slot, q, draws, rfl⟩ := transferComplete_frame h
    exact .inl ⟨rfl, rfl⟩
  · obtain ⟨m, rest, -, rfl⟩ := pop_spec h
    exact .inl ⟨rfl, rfl⟩
  · obtain ⟨-, -, hids⟩ := dispatch_queue_and_planes h
    exact hids

theorem StepCase.keeps_planesDistinct (h : StepCase s t) (hs : planesDistinct s) : planesDistinct t := by
  rw [planesDistinct] at hs ⊢
  obtain ⟨hr, hw⟩ | ⟨hr, hw⟩ := h.planes_kept_or_exchanged
  · rwa [hr, hw]
  · rw [hr, hw]
    exact hs.symm

/-- Settles O50: by the cases of the step, in the state with the turn used up, which has the same queue, slot and ids. -/
theorem stepKeepsTheQueueBoundAndThePlanes : Obligations.StepKeepsTheQueueBoundAndThePlanes := by
  unfold Obligations.StepKeepsTheQueueBoundAndThePlanes
  intro s t h
  obtain ⟨-, sched, draws, hc⟩ := step_cases h
  exact ⟨fun hs => hc.keeps_queueBounded (queueBounded_congr hs rfl rfl), hc.keeps_planesDistinct⟩

end Sys2Proof.Machine
end

section
/-! PROOF. StepKeepsTheMemory and StepLeavesTheLocksFree (spec/20_memory.md R41, R45, R47, R51): which steps touch external
memory, the lock or the bus at all, and then memory and the locks through each of those. -/

open Sys2Proof Sys2Proof.Safety

namespace Sys2Proof.Machine

variable {s t : State}

/-! ### Which steps touch memory, the lock and the bus -/

/-- Neither the parameters, external memory, the lock nor the bus differ between the two states. -/
structure SameMemoryAndLocks (s t : State) : Prop where
  params : t.params = s.params
  ext : t.ext = s.ext
  lock : t.lock = s.lock
  bus : t.bus = s.bus

/-- `dispatch` gives the lock back that its handler took (R112, R117), and no handler transfers a line. -/
theorem dispatch_sameMemoryAndLocks (h : dispatch? s = some t) : SameMemoryAndLocks s t := by
  obtain ⟨m, -, ⟨k, -, hk⟩ | ⟨-, rfl⟩⟩ := dispatch_spec h
  · obtain ⟨log, tx, mode, prims, color, r, w, -, rfl⟩ := runHandler_frame hk
    exact ⟨rfl, rfl, rfl, rfl⟩
  · exact ⟨rfl, rfl, rfl, rfl⟩

/-- Only a render pass and a scanline read can touch memory, the lock or the bus. -/
theorem StepCase.sameMemoryAndLocks_or (h : StepCase s t) :
    SameMemoryAndLocks s t ∨ render? s = some t ∨ scanlineRead? s = some t := by
  cases h with
  | render h => exact .inr (.inl h)
  | scanlineRead h => exact .inr (.inr h)
  | dispatch _ h => exact .inl (dispatch_sameMemoryAndLocks h)
  | deliver h => obtain ⟨rx, tok, c0, c1, slot, crc, n, rfl⟩ := deliver_frame h; exact .inl ⟨rfl, rfl, rfl, rfl⟩
  | complete h =>
    obtain ⟨phase, armed, n, crc, expected, slot, q, draws, rfl⟩ := transferComplete_frame h
    exact .inl ⟨rfl, rfl, rfl, rfl⟩
  | pop _ h => obtain ⟨m, rest, -, rfl⟩ := pop_spec h; exact .inl ⟨rfl, rfl, rfl, rfl⟩
  | renderTick h => obtain ⟨-, -, rfl⟩ := renderTick_spec h; exact .inl ⟨rfl, rfl, rfl, rfl⟩
  | resume h => obtain ⟨-, -, rfl⟩ := resumeB_spec h; exact .inl ⟨rfl, rfl, rfl, rfl⟩
  | getSlot h => obtain ⟨-, req, phase, -, rfl⟩ := getSlot_spec h; exact .inl ⟨rfl, rfl, rfl, rfl⟩
  | submit h => obtain ⟨slot, -, -, rfl⟩ := submit_spec h; exact .inl ⟨rfl, rfl, rfl, rfl⟩
  | wait h | framerInit _ h | drained _ _ _ h | hostSend _ h | hostTake h | hostLose _ h =>
    subst h; exact .inl ⟨rfl, rfl, rfl, rfl⟩

/-! ### Memory (R31, R41, R45) -/

/-- A render pass writes memory inside its size, if at all (R132, R152). -/
theorem render_writesMemory (h : render? s = some t) :
    t.params = s.params ∧ ∃ lo n, WrittenWithin s.params.extMemSize lo n s.ext t.ext := by
  obtain ⟨-, ⟨-, rfl⟩ | ⟨g, lb, ext, bus, mode, -, hw, -, -, -, ⟨-, rfl⟩ | ⟨prims, phase, f, -, rfl⟩⟩⟩ := render_spec h
  · exact ⟨rfl, 0, 0, .refl _ _ _ _⟩
  all_goals exact ⟨rfl, _, _, hw⟩

/-- A scanline read writes no memory (R161). -/
theorem scanlineRead_keepsMemory (h : scanlineRead? s = some t) : t.params = s.params ∧ t.ext = s.ext := by
  obtain ⟨-, -, ⟨-, rfl⟩ | ⟨g, -, ⟨px, bus, draws, -, -, rfl⟩ | ⟨x, y, -, -, rfl⟩⟩⟩ := scanlineRead_spec h
  all_goals exact ⟨rfl, rfl⟩

/-- Memory with the bytes of a range written inside its size is canonical and inside it as before. -/
theorem memoryOk_of_written {lo n : Nat} (hs : memoryOk s) (hp : t.params = s.params)
    (hw : WrittenWithin s.params.extMemSize lo n s.ext t.ext) : memoryOk t := by
  obtain ⟨hwf, hin⟩ := hs
  obtain ⟨-, keepsWf, keepsIn⟩ := hw
  exact ⟨keepsWf hwf, by rw [hp]; exact keepsIn hin⟩

theorem memoryOk_congr (hs : memoryOk s) (hp : t.params = s.params) (he : t.ext = s.ext) : memoryOk t := by
  rwa [memoryOk, hp, he]

theorem StepCase.keeps_memoryOk (h : StepCase s t) (hs : memoryOk s) : memoryOk t := by
  rcases h.sameMemoryAndLocks_or with h | h | h
  · exact memoryOk_congr hs h.params h.ext
  · obtain ⟨hp, lo, n, hw⟩ := render_writesMemory h
    exact memoryOk_of_written hs hp hw
  · obtain ⟨hp, he⟩ := scanlineRead_keepsMemory h
    exact memoryOk_congr hs hp he

/-- Settles O52: by the cases of the step, in the state with the turn used up, which has the same memory. -/
theorem stepKeepsTheMemory : Obligations.StepKeepsTheMemory := by
  unfold Obligations.StepKeepsTheMemory
  intro s t hs h
  obtain ⟨-, sched, draws, hc⟩ := step_cases h
  exact hc.keeps_memoryOk (memoryOk_congr hs rfl rfl)

/-! ### The lock and the bus (R47, R51, R52) -/

/-- A stopped block may hold what it held (R169, R171). -/
theorem locksFree_of_stopped (h : stopped t = true) : locksFree t := fun hr => nomatch h.symm.trans hr

/-- A render pass that ends gives the lock and the bus back; one that is refused or raises stops the block (R132). -/
theorem render_leavesLocksFree (hb : s.bus = .free) (h : render? s = some t) : locksFree t := by
  obtain ⟨hl, ⟨-, rfl⟩ | ⟨g, lb, ext, bus, mode, -, -, -, -, -, ⟨hbus, rfl⟩ | ⟨prims, phase, f, -, rfl⟩⟩⟩ := render_spec h
  · exact locksFree_of_stopped (Bool.or_true _)
  · exact fun _ => ⟨hl, hbus.elim (·.trans hb) id⟩
  · exact locksFree_of_stopped rfl

/-- So does a scanline read (R161). -/
theorem scanlineRead_leavesLocksFree (hb : s.bus = .free) (h : scanlineRead? s = some t) : locksFree t := by
  obtain ⟨-, hl, ⟨-, rfl⟩ | ⟨g, -, ⟨px, bus, draws, -, hbus, rfl⟩ | ⟨x, y, -, -, rfl⟩⟩⟩ := scanlineRead_spec h
  · exact locksFree_of_stopped (Bool.or_true _)
  · exact fun _ => ⟨hl, hbus.elim (·.trans hb) id⟩
  · exact locksFree_of_stopped rfl

theorem StepCase.leaves_locksFree (h : StepCase s t) (hl : s.lock = .free) (hb : s.bus = .free) : locksFree t := by
  rcases h.sameMemoryAndLocks_or with h | h | h
  · exact fun _ => ⟨h.lock.trans hl, h.bus.trans hb⟩
  · exact render_leavesLocksFree hb h
  · exact scanlineRead_leavesLocksFree hb h

/-- Settles O51: a block that steps is running, so it starts with both free, and each case of the step frees what it took
or stops the block. -/
theorem stepLeavesTheLocksFree : Obligations.StepLeavesTheLocksFree := by
  unfold Obligations.StepLeavesTheLocksFree
  intro s t hs h
  obtain ⟨hrun, sched, draws, hc⟩ := step_cases h
  obtain ⟨hl, hb⟩ := hs hrun
  exact hc.leaves_locksFree hl hb

end Sys2Proof.Machine
end

section
/-! PROOF. ReadLineReturnsTheBytes, WrittenLineIsReadBackAfterSwap and LineTransfersThatFail (spec/46_framestore.md R152 to
R154): `write_line` and `read_line` with the bus free as their flows, and those flows inside memory and past its end. -/

open Sys2Proof

namespace Sys2Proof.Machine

variable {s t : State} {g : Screen} {y n : Nat} {data : List Byte}

/-! ### The operations with the bus free -/

/-- `write_line` on a free bus runs its flow (R152). -/
theorem exec_writeLine_free (hg : s.mode.screen? = some g) (hb : s.bus = .free) :
    exec (.writeLine y data) s = .next (flowEnd (writeLineFlow g y data s)) := by
  have hw : writeLine? y data s = some (flowEnd (writeLineFlow g y data s)) := by
    simp only [writeLine?, hg, busReady_free hb, if_true]
  exact congrArg (stepOrWait s) hw

/-- `read_line` on a free bus returns the bytes its flow read (R153; log 9). -/
theorem exec_readLine_ok {bs : List Byte} (hg : s.mode.screen? = some g) (hb : s.bus = .free)
    (hf : readLineFlow g y n s = .ok (bs, t)) : exec (.readLine y n) s = .next { t with ret := .bytes bs } := by
  have hr : readLine? y n s = some { t with ret := .bytes bs } := by
    simp only [readLine?, hg, busReady_free hb, hf, if_true]
  exact congrArg (stepOrWait s) hr

/-- `read_line` on a free bus stops where its flow raised (R153, R169). -/
theorem exec_readLine_error (hg : s.mode.screen? = some g) (hb : s.bus = .free)
    (hf : readLineFlow g y n s = .error t) : exec (.readLine y n) s = .next t := by
  have hr : readLine? y n s = some t := by
    simp only [readLine?, hg, busReady_free hb, hf, if_true]
  exact congrArg (stepOrWait s) hr

/-- In Text mode `write_line` is refused (log 12). -/
theorem exec_writeLine_text (h : s.mode.screen? = none) :
    exec (.writeLine y data) s = .next (s.refuse .textMode) := by
  have hw : writeLine? y data s = some (s.refuse .textMode) := by simp only [writeLine?, h]
  exact congrArg (stepOrWait s) hw

/-- In Text mode `read_line` is refused (log 12). -/
theorem exec_readLine_text (h : s.mode.screen? = none) : exec (.readLine y n) s = .next (s.refuse .textMode) := by
  have hr : readLine? y n s = some (s.refuse .textMode) := by simp only [readLine?, h]
  exact congrArg (stepOrWait s) hr

/-! ### Transfers inside memory -/

/-- A free bus given back is the bus as it was. -/
theorem State.freeBus_of_free (h : s.bus = .free) : s.freeBus = s := by rw [State.freeBus, ← h]

/-- Bytes written are read back from their addresses (R45). -/
theorem map_extByte_putBytes (s : State) (a : Nat) (bs : List Byte) :
    (List.range bs.length).map (fun i => extByte (s.withExt (putBytes a bs s.ext)) (a + i)) = bs := by
  refine List.ext_getElem (by simp) fun i _ hi => ?_
  simp [extByte_putBytes, hi]

/-- `write_line` inside memory leaves the line's bytes written and the bus free (R152). -/
theorem exec_writeLine_inside (hg : s.mode.screen? = some g) (hb : s.bus = .free)
    (hfit : lineAddr s.params g s.writeId y + data.length ≤ s.params.extMemSize) :
    exec (.writeLine y data) s =
      .next (s.withExt (putBytes (lineAddr s.params g s.writeId y) data s.ext)).freeBus := by
  rw [exec_writeLine_free hg hb, writeLineFlow_ok hfit, flowEnd_ok]

/-- Settles O37: the flow of a read inside memory returns the bytes and gives the bus back, which was free. -/
theorem readLineReturnsTheBytes : Obligations.ReadLineReturnsTheBytes := by
  unfold Obligations.ReadLineReturnsTheBytes
  intro s g y n hg hb hfit
  rw [exec_readLine_ok hg hb (readLineFlow_ok hfit), State.freeBus_of_free hb]

/-- Settles O38: after the swap the read plane is the plane written, so the line read is at the line written. -/
theorem writtenLineIsReadBackAfterSwap : Obligations.WrittenLineIsReadBackAfterSwap := by
  unfold Obligations.WrittenLineIsReadBackAfterSwap
  intro s g y data hg hb hfit
  exact ⟨_, _, _, exec_writeLine_inside hg hb hfit, rfl, readLineReturnsTheBytes _ g y data.length hg rfl hfit,
    congrArg Returned.bytes (map_extByte_putBytes s _ data)⟩

/-! ### Transfers past the end of memory -/

/-- The first segment of a transfer that is not empty starts where the transfer does (R151). -/
theorem segments_head (a : Nat) (h : n ≠ 0) : ∃ k post, segments a n = (a, k) :: post ∧ 1 ≤ k := by
  obtain ⟨m, rfl⟩ := Nat.exists_eq_succ_of_ne_zero h
  rw [segments, segmentsFrom, if_neg h]
  exact ⟨_, _, rfl, (segment_bounds a h).1⟩

/-- A write raises at its first segment where that passes the end of memory (R45, R152). -/
theorem writeSegments_pastEnd {x k : Nat} {post : List (Nat × Nat)}
    (h : s.params.extMemSize < x + (data.take k).length) :
    writeSegments ((x, k) :: post) data s = .error (s.raise (.extMemRange x)) := by
  simp only [writeSegments, memWrite_error h]

/-- A read raises at the first of its segments that passes the end of memory (R45, R153). -/
theorem readSegments_pastEnd {pre post : List (Nat × Nat)} {x k : Nat}
    (hpre : ∀ p, p ∈ pre → p.1 + p.2 ≤ s.params.extMemSize) (h : s.params.extMemSize < x + k) :
    readSegments (pre ++ (x, k) :: post) s = .error (s.raise (.extMemRange x)) := by
  induction pre with
  | nil => simp only [List.nil_append, readSegments, memRead_error h]
  | cons p pre ih =>
    obtain ⟨hp, hrest⟩ := List.forall_mem_cons.mp hpre
    simp only [List.cons_append, readSegments, memRead_ok hp, ih hrest]

/-- A line write from past the end of memory raises there with the bus held (R152; log 13). -/
theorem writeLineFlow_pastEnd (hd : data ≠ []) (h : s.params.extMemSize ≤ lineAddr s.params g s.writeId y) :
    writeLineFlow g y data s =
      .error { s with bus := .held .a, fault := some (.extMemRange (lineAddr s.params g s.writeId y)) } := by
  have hlen := List.length_pos_iff.mpr hd
  obtain ⟨k, post, hseg, hk⟩ := segments_head (lineAddr s.params g s.writeId y) hlen.ne'
  have hpast : (s.takeBus .a).params.extMemSize < lineAddr s.params g s.writeId y + (data.take k).length := by
    rw [List.length_take, State.takeBus_params]
    omega
  rw [writeLineFlow, hseg, writeSegments_pastEnd hpast]
  rfl

/-- A line read raises at the first segment that passes the end of memory, with the bus held (R153; log 13). -/
theorem readLineFlow_pastEnd {pre post : List (Nat × Nat)} {x k : Nat}
    (hseg : segments (lineAddr s.params g s.readId y) n = pre ++ (x, k) :: post)
    (hpre : ∀ p, p ∈ pre → p.1 + p.2 ≤ s.params.extMemSize) (h : s.params.extMemSize < x + k) :
    readLineFlow g y n s = .error { s with bus := .held .b, fault := some (.extMemRange x) } := by
  rw [readLineFlow, hseg, readSegments_pastEnd (s := s.takeBus .b) hpre h]
  rfl

/-- Settles O36: the flows that raise; a read that starts past the end raises at its first segment. -/
theorem lineTransfersThatFail : Obligations.LineTransfersThatFail := by
  unfold Obligations.LineTransfersThatFail
  intro s y n data
  refine ⟨fun g hg hb hd h => ?_, fun g hg hb hn h => ?_, fun g pre post x k hg hb hseg hpre h => ?_,
    fun h => ⟨exec_writeLine_text h, exec_readLine_text h⟩⟩
  · rw [exec_writeLine_free hg hb, writeLineFlow_pastEnd hd h, flowEnd_error]
  · obtain ⟨k, post, hseg, hk⟩ := segments_head (lineAddr s.params g s.readId y) (Nat.ne_of_gt hn)
    exact exec_readLine_error hg hb (readLineFlow_pastEnd (pre := []) hseg nofun (by omega))
  · exact exec_readLine_error hg hb (readLineFlow_pastEnd hseg hpre h)

end Sys2Proof.Machine
end

section
/-! PROOF. DecodeOfEncode, EncodeOfDecode, SpecPacketsDecode and DecoderRefusesByName (spec/30_encoding.md R59 to R73): the
fields of a payload and their bytes, the messages that instructions have, and the bytes that decode to one. -/

open Sys2Proof.Machine

namespace Sys2Proof

variable {w : Wire} {dir : Direction} {stale : Nat → Byte} {i : Instr} {id size h0 h1 c0 c1 : Byte} {p rest bs : List Byte}

/-! ### Fields and their bytes (R42, R72) -/

/-- The bytes of the 16-bit field read from two bytes are those two (R42). -/
@[simp] theorem le16bytes_le16 (b0 b1 : Byte) : le16bytes (le16 b0 b1) = [b0, b1] := by
  simp only [le16bytes, le16, BitVec.extractLsb'_append_eq_ite]
  simp

/-- The bytes of the 32-bit field read from four bytes are those four (R42). -/
@[simp] theorem le32bytes_le32 (b0 b1 b2 b3 : Byte) : le32bytes (le32 b0 b1 b2 b3) = [b0, b1, b2, b3] := by
  simp only [le32bytes, le32, BitVec.extractLsb'_append_eq_ite]
  simp

/-- A byte list is the list of its bytes by offset (R72). -/
theorem map_u8At_range (p : List Byte) : (List.range p.length).map (u8At p) = p := by
  refine List.ext_getElem (by simp) fun j _ hj => ?_
  simp [u8At, hj]

/-- No command's payload is longer than a packet can carry (R59, R62). -/
theorem commandSize_le (k : CommandKind) : k.size ≤ Config.maxPayload := by cases k <;> decide

/-! ### Messages (R62 to R71) -/

/-- The messages there are: a command with a payload of its struct's length, INFO_RESPONSE with its own, and any bytes
under an unknown id. -/
inductive MessageOf (w : Wire) : Instr → Byte → List Byte → Prop where
  | command (k : CommandKind) (p : List Byte) (h : p.length = k.size) : MessageOf w (instrOf k p) (w.ids.idOf k) p
  | infoResponse (dir : Direction) (p : List Byte) (h : p.length = infoResponseSize) :
    MessageOf w (infoResponseOf dir p) w.ids.infoResponse p
  | unknownId (id : Byte) (p : List Byte) : MessageOf w (.unknownId id p) id p

/-- A command is the message of a payload whose fields read back are its operands; for the payloads of `encodeMessage`
that is a matter of computing them (R42). -/
theorem MessageOf.of_fields (k : CommandKind)
    (hi : instrOf k p = i := by simp [instrOf, u16At, f32At, u8At, le16bytes, le32bytes])
    (h : p.length = k.size := by rfl) : MessageOf w i (w.ids.idOf k) p := hi ▸ .command k p h

/-- What a wire packet carries is one of the messages (R62 to R71). -/
theorem messageOf_of_encodeMessage (h : encodeMessage w i = some (id, p)) : MessageOf w i id p := by
  cases i <;> cases h
  case unknownId => exact .unknownId id p
  case infoResponse dir mode width height depth readId writeId =>
    have hi : infoResponseOf dir (infoResponseBytes mode width height depth readId writeId) =
        .infoResponse dir mode width height depth readId writeId := by
      simp [infoResponseOf, infoResponseBytes, u16At, u8At, le16bytes]
    exact hi ▸ .infoResponse dir _ rfl
  case modeChange => exact .of_fields .modeChange
  case setPixel => exact .of_fields .setPixel
  case drawLine => exact .of_fields .drawLine
  case drawTriangle => exact .of_fields .drawTriangle
  case clearScreen => exact .of_fields .clearScreen
  case swapBuffer => exact .of_fields .swapBuffer
  case beginPrimitives => exact .of_fields .beginPrimitives
  case endPrimitives => exact .of_fields .endPrimitives
  case writeVertex => exact .of_fields .writeVertex
  case setPerspective => exact .of_fields .setPerspective
  case infoRequest => exact .of_fields .infoRequest

/-- The packet of the instruction that a command's bytes give carries the command's id and as many of those bytes as its
struct has. -/
theorem encodeMessage_instrOf (k : CommandKind) (p : List Byte) :
    encodeMessage w (instrOf k p) = some (w.ids.idOf k, (List.range k.size).map (u8At p)) := by
  cases k <;>
    simp [instrOf, encodeMessage, IdMap.idOf, CommandKind.size, u16At, f32At, List.range_succ_eq_map]

/-- The packet of the INFO_RESPONSE that bytes give carries the first eight of them (R71). -/
theorem encodeMessage_infoResponseOf (dir : Direction) (p : List Byte) :
    encodeMessage w (infoResponseOf dir p) =
      some (w.ids.infoResponse, (List.range infoResponseSize).map (u8At p)) := by
  simp [infoResponseOf, encodeMessage, infoResponseBytes, infoResponseSize, u16At, List.range_succ_eq_map]

/-- Each of the messages is what its instruction's packet carries (R62 to R71). -/
theorem MessageOf.encodeMessage_eq (h : MessageOf w i id p) : encodeMessage w i = some (id, p) := by
  cases h with
  | command k p hp => rw [encodeMessage_instrOf, ← hp, map_u8At_range]
  | infoResponse dir p hp => rw [encodeMessage_infoResponseOf, ← hp, map_u8At_range]
  | unknownId => rfl

/-- A well-formed instruction's payload fits a packet (R59). -/
theorem MessageOf.length_le (h : MessageOf w i id p) (hw : i.wellFormed w = true) : p.length ≤ Config.maxPayload := by
  cases h with
  | command k p hp => exact hp ▸ commandSize_le k
  | infoResponse dir p hp => exact hp ▸ (by decide : infoResponseSize ≤ Config.maxPayload)
  | unknownId => exact of_decide_eq_true (Bool.and_eq_true_iff.mp hw).2

/-! ### The instruction of a message -/

/-- Under INFO_RESPONSE's id a payload of its length is read as it stands (R71). -/
theorem decodeMessage_infoResponse (hp : p.length = infoResponseSize) :
    decodeMessage w dir stale w.ids.infoResponse p = infoResponseOf dir p := by
  rw [decodeMessage, if_pos rfl, ← hp, commandBytes_full]

/-- Under a command's id a payload of its struct's length is read as it stands (R72). -/
theorem decodeMessage_command {k : CommandKind} (hi : id ≠ w.ids.infoResponse) (hk : kindOfId w.ids id = some k)
    (hp : p.length = k.size) : decodeMessage w dir stale id p = instrOf k p := by
  simp only [decodeMessage, if_neg hi, hk]
  rw [← hp, commandBytes_full]

/-- Under any other id the payload is kept as it is (R109). -/
theorem decodeMessage_unknown (hi : id ≠ w.ids.infoResponse) (hk : kindOfId w.ids id = none) :
    decodeMessage w dir stale id p = .unknownId id p := by
  simp only [decodeMessage, if_neg hi, hk]

/-- Under a legal id map a well-formed instruction's message, on its own stream, gives the instruction back. -/
theorem MessageOf.decodeMessage_eq (h : MessageOf w i id p) (hl : w.ids.legal = true) (hw : i.wellFormed w = true) :
    decodeMessage w i.direction stale id p = i := by
  cases h with
  | command k p hp => exact decodeMessage_command ((IdMap.legal_spec hl).1 k) (kindOfId_idOf hl k) hp
  | infoResponse dir p hp => exact decodeMessage_infoResponse hp
  | unknownId =>
    obtain ⟨hk, hi⟩ := kindOfId_of_lacks (Bool.and_eq_true_iff.mp hw).1
    exact decodeMessage_unknown hi hk

/-- A payload of its id's nominal size, or any under an unknown id, is the message of the instruction it decodes to. -/
theorem messageOf_decodeMessage (h : p.length = nominalSize w.ids id ∨ w.ids.lacks id = true) :
    MessageOf w (decodeMessage w dir stale id p) id p := by
  by_cases hi : id = w.ids.infoResponse
  · have hp : p.length = infoResponseSize :=
      h.elim (fun h => by rwa [nominalSize, if_pos hi] at h) fun h => absurd hi (kindOfId_of_lacks h).2
    rw [hi, decodeMessage_infoResponse hp]
    exact .infoResponse dir p hp
  · cases hk : kindOfId w.ids id with
    | none =>
      rw [decodeMessage_unknown hi hk]
      exact .unknownId id p
    | some k =>
      have hp : p.length = k.size :=
        h.elim (fun h => by rwa [nominalSize, if_neg hi, hk] at h) fun h => nomatch hk.symm.trans (kindOfId_of_lacks h).1
      rw [decodeMessage_command hi hk hp, ← idOf_of_kindOfId hk]
      exact .command k p hp

/-! ### The decoder, step by step (R59, R60, R73) -/

/-- After the token the header is judged: its CRC, then its size, and then the body. -/
theorem decode_startToken :
    decode w dir stale (Config.startToken :: id :: size :: h0 :: h1 :: rest) =
      if crc16 w.crcReflected [id, size] ≠ le16 h0 h1 then .error .badHeaderCrc
      else if Config.maxPayload < size.toNat then .error .oversize
      else decodeBody w dir stale id size rest := by
  rw [decode, if_neg (not_not.mpr rfl)]

/-- A good header of a size a packet can have leaves the body to decode. -/
theorem decode_of_header (hc : crc16 w.crcReflected [id, size] = le16 h0 h1) (hs : size.toNat ≤ Config.maxPayload) :
    decode w dir stale (Config.startToken :: id :: size :: h0 :: h1 :: rest) = decodeBody w dir stale id size rest := by
  rw [decode_startToken, if_neg (not_not.mpr hc), if_neg (Nat.not_lt.mpr hs)]

/-- A body with a payload and its two CRC bytes is judged by that CRC. -/
theorem decodeBody_of_payload (hz : size ≠ 0#8) (hr : rest.drop size.toNat = c0 :: c1 :: bs) :
    decodeBody w dir stale id size rest =
      if crc16 w.crcReflected (rest.take size.toNat) = le16 c0 c1 then
        .ok (decodeMessage w dir stale id (rest.take size.toNat), bs)
      else .error .badPayloadCrc := by
  simp only [decodeBody, if_neg hz, hr]

/-- A body that ends before its two CRC bytes do is cut short. -/
theorem decodeBody_truncated (hz : size ≠ 0#8) (hr : rest.length < size.toNat + 2) :
    decodeBody w dir stale id size rest = .error .truncated := by
  rw [decodeBody, if_neg hz]
  split
  · rename_i hd
    have := congrArg List.length hd
    simp only [List.length_drop, List.length_cons] at this
    omega
  · rfl

/-- Bytes too few for a header are cut short. -/
theorem decode_truncated (hr : rest.length < 4) :
    decode w dir stale (Config.startToken :: rest) = .error .truncated := by
  match rest with
  | [] | [_] | [_, _] | [_, _, _] => rfl
  | _ :: _ :: _ :: _ :: _ => simp +arith at hr

/-- A packet with a payload carries it and its CRC after the header (R59). -/
theorem packet_payload (hp : p ≠ []) :
    packet w id p = Config.startToken :: id :: BitVec.ofNat 8 p.length ::
      (le16bytes (crc16 w.crcReflected [id, BitVec.ofNat 8 p.length]) ++ (p ++ le16bytes (crc16 w.crcReflected p))) := by
  simp [packet, hp]

/-- After a good header, a body that decodes makes up the packet of a payload of the header's size. -/
theorem decodeBody_ok (h : decodeBody w dir stale id size rest = .ok (i, bs)) :
    ∃ p, p.length = size.toNat ∧ i = decodeMessage w dir stale id p ∧
      Config.startToken :: id :: size :: (le16bytes (crc16 w.crcReflected [id, size]) ++ rest) = packet w id p ++ bs := by
  by_cases hz : size = 0#8
  · rw [decodeBody, if_pos hz] at h
    cases h
    exact ⟨[], by simp [hz], rfl, by simp [hz, packet]⟩
  · rw [decodeBody, if_neg hz] at h
    split at h
    · rename_i c0 c1 bs' hd
      split_ifs at h with hc
      cases h
      have hlen := congrArg List.length hd
      have hp : (rest.take size.toNat).length = size.toNat := by
        simp only [List.length_drop, List.length_cons, List.length_take] at hlen ⊢
        omega
      have hne : rest.take size.toNat ≠ [] := fun hn => hz (BitVec.eq_of_toNat_eq (hp.symm.trans (congrArg _ hn)))
      refine ⟨_, hp, rfl, ?_⟩
      rw [packet_payload hne, hp, hc, le16bytes_le16, BitVec.ofNat_toNat, BitVec.setWidth_eq]
      simp [← hd]
    · cases h

/-- Bytes that decode are the packet of a payload of the header's size, and the bytes left over (R59, R60). -/
theorem decode_ok {token : Byte} {tail : List Byte} (h : decode w dir stale (token :: id :: size :: tail) = .ok (i, rest)) :
    ∃ p, p.length = size.toNat ∧ i = decodeMessage w dir stale id p ∧ token :: id :: size :: tail = packet w id p ++ rest := by
  match tail with
  | [] | [_] =>
    simp only [decode] at h
    split at h <;> cases h
  | h0 :: h1 :: body =>
    rw [decode] at h
    split_ifs at h with ht hc hs
    rw [not_not] at ht hc
    obtain ⟨p, hp, hi, hb⟩ := decodeBody_ok h
    refine ⟨p, hp, hi, ?_⟩
    rw [← hb, hc, le16bytes_le16, ht]
    rfl

/-! ### The obligations -/

/-- Settles O8: the packet decodes to the instruction of its message, which is one of the three there are. -/
theorem decodeOfEncode : Obligations.DecodeOfEncode := by
  unfold Obligations.DecodeOfEncode
  intro w stale i bs rest hl hw he
  obtain ⟨⟨id, p⟩, hm, rfl⟩ := Option.map_eq_some_iff.mp he
  have hmsg := messageOf_of_encodeMessage hm
  rw [decode_packet w i.direction stale id p rest (hmsg.length_le hw), hmsg.decodeMessage_eq hl hw]

/-- Settles O9: the bytes are a packet, whose payload is the message of the instruction it decodes to. -/
theorem encodeOfDecode : Obligations.EncodeOfDecode := by
  unfold Obligations.EncodeOfDecode
  intro w dir stale i id size tail rest h hn
  obtain ⟨p, hp, rfl, hb⟩ := decode_ok h
  refine ⟨packet w id p, ?_, hb.symm⟩
  rw [encode, (messageOf_decodeMessage (hp.symm ▸ hn)).encodeMessage_eq, Option.map_some]

/-- A packet to the block in the spec's format decodes to its instruction, with no byte left over. -/
theorem decode_toBlock_of_encode (hd : i.direction = .toBlock) (hw : i.wellFormed Wire.spec = true)
    (he : encode Wire.spec i = some bs) : decode Wire.spec .toBlock stale bs = .ok (i, []) := by
  simpa [hd] using decodeOfEncode Wire.spec stale i bs [] (by decide) hw he

/-- Settles O7: the six packets are the encodings of the six instructions. -/
theorem specPacketsDecode : Obligations.SpecPacketsDecode := by
  unfold Obligations.SpecPacketsDecode
  intro stale
  refine ⟨?_, ?_, ?_, ?_, ?_, ?_⟩ <;> exact decode_toBlock_of_encode rfl rfl (by decide +kernel)

/-- Settles O10: the framing is judged in the order token, header CRC, size, and then the body. -/
theorem decoderRefusesByName : Obligations.DecoderRefusesByName := by
  unfold Obligations.DecoderRefusesByName
  intro w dir stale token id size h0 h1 rest
  refine ⟨fun ht => ?_, fun hc => ?_, fun hc hs => ?_, fun hc hs hz hr => ?_, fun c0 c1 hc hz hs hc0 hc1 hp => ?_,
    decode_truncated, rfl⟩
  · exact if_pos ht
  · exact decode_startToken.trans (if_pos hc)
  · exact decode_startToken.trans ((if_neg (not_not.mpr hc)).trans (if_pos hs))
  · exact (decode_of_header hc hs).trans (decodeBody_truncated hz hr)
  · obtain ⟨hl0, rfl⟩ := List.getElem?_eq_some_iff.mp hc0
    obtain ⟨hl1, rfl⟩ := List.getElem?_eq_some_iff.mp hc1
    have hd := (List.drop_eq_getElem_cons hl0).trans (congrArg _ (List.drop_eq_getElem_cons hl1))
    have hne : size ≠ 0#8 := fun h => by simp [h] at hz
    exact (decode_of_header hc hs).trans ((decodeBody_of_payload hne hd).trans (if_neg hp))

end Sys2Proof
end

section
/-! PROOF. CrcDetectsSingleBitErrors and CrcUnitOperations (spec/40_crc.md R76 to R82): the bit step of either order loses
nothing, so neither does the step by a byte, and an error of one byte cannot be hidden by the bytes after it. -/

open Sys2Proof

namespace Sys2Proof.Machine

/-! ### One bit -/

/-- The bit shifted out comes back as bit 0 of the polynomial (R76). -/
theorem crcBit_getLsbD_zero (c : Word16) : (crcBit c).getLsbD 0 = c.msb := by
  rw [crcBit]
  split <;> simp_all [Config.crcPoly]

/-- The bit shifted out comes back as bit 15 of the reflected polynomial (R77). -/
theorem crcBitReflected_msb (c : Word16) : (crcBitReflected c).msb = c.getLsbD 0 := by
  rw [crcBitReflected]
  split <;> simp_all [Config.crcPolyReflected, BitVec.msb_eq_getLsbD_last]

/-- A word is its shift to the left and the bit that this loses. -/
theorem eq_of_shiftLeft_one {c d : Word16} (hm : c.msb = d.msb) (hs : c <<< 1 = d <<< 1) : c = d := by
  refine BitVec.eq_of_getLsbD_eq fun i hi => ?_
  by_cases h : i = 15
  · simpa [h, BitVec.msb_eq_getLsbD_last] using hm
  · have := congrArg (BitVec.getLsbD · (i + 1)) hs
    simpa [hi, show i + 1 < 16 by omega] using this

/-- A word is its shift to the right and the bit that this loses. -/
theorem eq_of_shiftRight_one {c d : Word16} (hl : c.getLsbD 0 = d.getLsbD 0) (hs : c >>> 1 = d >>> 1) : c = d := by
  refine BitVec.eq_of_getLsbD_eq fun i _ => ?_
  cases i with
  | zero => exact hl
  | succ i =>
    have := congrArg (BitVec.getLsbD · i) hs
    simpa only [BitVec.getLsbD_ushiftRight, Nat.add_comm 1] using this

/-- A polynomial added to both words or to neither is taken off again. -/
theorem eq_of_addIf_eq {lost : Bool} {c d poly : Word16}
    (h : (if lost then c ^^^ poly else c) = if lost then d ^^^ poly else d) : c = d := by
  cases lost with
  | false => exact h
  | true => exact (BitVec.xor_left_inj poly).mp h

theorem crcBit_injective : Function.Injective crcBit := by
  intro c d h
  have hm : c.msb = d.msb := by rw [← crcBit_getLsbD_zero, h, crcBit_getLsbD_zero]
  rw [crcBit, crcBit, hm] at h
  exact eq_of_shiftLeft_one hm (eq_of_addIf_eq h)

theorem crcBitReflected_injective : Function.Injective crcBitReflected := by
  intro c d h
  have hl : c.getLsbD 0 = d.getLsbD 0 := by rw [← crcBitReflected_msb, h, crcBitReflected_msb]
  rw [crcBitReflected, crcBitReflected, hl] at h
  exact eq_of_shiftRight_one hl (eq_of_addIf_eq h)

/-! ### One byte -/

theorem crcBits_eq_iterate (bit : Word16 → Word16) (n : Nat) (c : Word16) : crcBits bit n c = bit^[n] c := by
  induction n generalizing c with
  | zero => rfl
  | succ n ih => exact ih (bit c)

/-- Repetitions of a bit step are a fold that looks at no element. -/
theorem crcBits_eq_foldl (bit : Word16 → Word16) (n : Nat) (c : Word16) :
    crcBits bit n c = (List.range n).foldl (fun c _ => bit c) c := by
  rw [crcBits_eq_iterate, List.foldl_const, List.length_range]

theorem crcBits_injective {bit : Word16 → Word16} (h : Function.Injective bit) (n : Nat) :
    Function.Injective (crcBits bit n) := by
  rw [funext (crcBits_eq_iterate bit n)]
  exact h.iterate n

/-- Different accumulators differ after the same byte. -/
theorem crcStep_injective_acc (reflected : Bool) (b : Byte) : Function.Injective (crcStep reflected · b) := by
  intro c d h
  cases reflected with
  | false => exact (BitVec.xor_left_inj _).mp (crcBits_injective crcBit_injective 8 h)
  | true => exact (BitVec.xor_left_inj _).mp (crcBits_injective crcBitReflected_injective 8 h)

/-- Different bytes take an accumulator to different ones. -/
theorem crcStep_injective_byte (reflected : Bool) (c : Word16) : Function.Injective (crcStep reflected c) := by
  intro b d h
  cases reflected with
  | false =>
    have hb := (BitVec.xor_right_inj _).mp (crcBits_injective crcBit_injective 8 h)
    bv_omega
  | true =>
    have hb := (BitVec.xor_right_inj _).mp (crcBits_injective crcBitReflected_injective 8 h)
    bv_omega

/-! ### A block of bytes -/

/-- The bytes of a block are taken one after the other. -/
theorem crcOver_append (reflected : Bool) (c : Word16) (pre post : List Byte) :
    crcOver reflected c (pre ++ post) = crcOver reflected (crcOver reflected c pre) post := by
  induction pre generalizing c with
  | nil => rfl
  | cons b pre ih => exact ih (crcStep reflected c b)

/-- Different accumulators differ after the same bytes. -/
theorem crcOver_injective (reflected : Bool) (bs : List Byte) : Function.Injective (crcOver reflected · bs) := by
  induction bs with
  | nil => exact fun _ _ h => h
  | cons b bs ih => exact ih.comp (crcStep_injective_acc reflected b)

/-- Blocks that differ in one byte have different CRCs (R82). -/
theorem crc16_injective_byte (reflected : Bool) (pre post : List Byte) :
    Function.Injective fun b => crc16 reflected (pre ++ b :: post) := by
  intro b d h
  simp only [crc16, crcOver_append] at h
  exact crcStep_injective_byte reflected _ (crcOver_injective reflected post h)

/-! ### Single-bit errors -/

/-- A byte with one bit changed is another byte. -/
theorem xor_bit_ne (b : Byte) {bit : Nat} (h : bit < 8) : b ^^^ (1#8 <<< bit) ≠ b := by
  intro hb
  have := congrArg (BitVec.getLsbD · bit) hb
  simp [h] at this

/-- Two bytes are told apart by their little-endian value (R42). -/
theorem le16_inj {b0 b1 c0 c1 : Byte} : le16 b0 b1 = le16 c0 c1 ↔ b0 = c0 ∧ b1 = c1 := by
  refine ⟨fun h => ?_, fun ⟨h0, h1⟩ => by rw [h0, h1]⟩
  simpa only [le16bytes_le16, List.cons.injEq, and_true] using congrArg le16bytes h

/-- Settles O12: a block's CRC tells its bytes apart one by one, and so does the value of the two CRC bytes. -/
theorem crcDetectsSingleBitErrors : Obligations.CrcDetectsSingleBitErrors := by
  unfold Obligations.CrcDetectsSingleBitErrors
  intro reflected pre post b c0 c1 bit hbit
  refine ⟨fun h => ?_, fun h => ?_, fun h => ?_⟩
  · exact xor_bit_ne b hbit (crc16_injective_byte reflected pre post h)
  · exact xor_bit_ne c0 hbit (le16_inj.mp h).1
  · exact xor_bit_ne c1 hbit (le16_inj.mp h).2

/-! ### The operations of the unit -/

/-- The guard compares the captured value with the value of the two CRC bytes (R81). -/
theorem crcOk_eq (s : State) :
    crcOk s = decide (s.frExpected.toNat = s.frCrc0.toNat + 256 * s.frCrc1.toNat) := by
  have h : s.frExpected = le16 s.frCrc0 s.frCrc1 ↔ s.frExpected.toNat = s.frCrc0.toNat + 256 * s.frCrc1.toNat := by
    rw [← le16_toNat, BitVec.toNat_inj]
  exact decide_eq_decide.mpr h

/-- The step by a byte, most significant bit first, bit by bit (R76). -/
theorem crcStep_false_eq_foldl (c : Word16) (b : Byte) :
    crcStep false c b = (List.range 8).foldl
      (fun c _ => if c.getLsbD 15 then (c <<< 1) ^^^ 0x1021#16 else c <<< 1) (c ^^^ (b.setWidth 16 <<< 8)) :=
  crcBits_eq_foldl crcBit 8 _

/-- The step by a byte in the reflected order, bit by bit (R77). -/
theorem crcStep_true_eq_foldl (c : Word16) (b : Byte) :
    crcStep true c b = (List.range 8).foldl
      (fun c _ => if c.getLsbD 0 then (c >>> 1) ^^^ 0x8408#16 else c >>> 1) (c ^^^ b.setWidth 16) :=
  crcBits_eq_foldl crcBitReflected 8 _

/-- Settles O11: each operation is its meaning, each step its fold, and the check values are computed. -/
theorem crcUnitOperations : Obligations.CrcUnitOperations := by
  unfold Obligations.CrcUnitOperations
  intro s b
  refine ⟨rfl, rfl, rfl, ?_, crcStep_false_eq_foldl s.crcAcc b, crcStep_true_eq_foldl s.crcAcc b, by decide +kernel⟩
  rw [← crcOk_eq]
  rfl

end Sys2Proof.Machine
end

section
/-! PROOF. ArmAndDeliver, CompletionArmsTheNextBlock, CompletionChecksTheCrc, LinkOperationsFrame and AgentsOwnSteps
(spec/41_link_framer.md R83 to R97): the byte channel and the completion callback, each said once as the state it leaves. -/

open Sys2Proof

namespace Sys2Proof.Machine

variable {s t : State} {tgt : Target} {n : Nat} {b : Byte} {rx : List Byte} {f : InFlight}

/-! ### Delivery (R84) -/

/-- The state once byte `b` has gone to the armed buffer, with the bytes `rx` waiting behind it (R84). -/
def State.takeByte (tgt : Target) (b : Byte) (rx : List Byte) (s : State) : State :=
  { s.putTarget tgt b with
    rx := rx, frFilled := s.frFilled + 1, crcAcc := crcStep s.params.wire.crcReflected s.crcAcc b }

theorem deliver_eq (ha : s.frArmed = some (tgt, n)) (hrx : s.rx = b :: rx) (hn : s.frFilled < n) :
    deliver? s = some (s.takeByte tgt b rx) := by
  obtain ⟨tok, c0, c1, slot, hp⟩ := putTarget_frame tgt b s
  simp only [deliver?, ha, hrx, if_pos hn, State.takeByte, hp]
  rfl

/-- A step of `deliver` takes the first byte waiting into a block that is armed and not full. -/
theorem deliver_spec (h : deliver? s = some t) :
    ∃ tgt n b rx, s.frArmed = some (tgt, n) ∧ s.rx = b :: rx ∧ s.frFilled < n ∧ t = s.takeByte tgt b rx := by
  have heq := h
  rw [deliver?] at h
  split at h
  · rename_i tgt n b rx ha hrx
    obtain ⟨hn, -⟩ := Option.ite_none_right_eq_some.mp h
    exact ⟨tgt, n, b, rx, ha, hrx, hn, Option.some.inj (heq.symm.trans (deliver_eq ha hrx hn))⟩
  · cases h

theorem exec_deliver (ha : s.frArmed = some (tgt, n)) (hrx : s.rx = b :: rx) (hn : s.frFilled < n) :
    exec .deliver s = .next (s.takeByte tgt b rx) :=
  congrArg (stepOrWait s) (deliver_eq ha hrx hn)

theorem takeByte_hdr (hf : s.frSlot = some f) :
    s.takeByte .hdr b rx = { s with
      rx := rx, frFilled := s.frFilled + 1
      frSlot := some (if s.frFilled = 0 then { f with id := some b } else { f with size := some b })
      crcAcc := crcStep s.params.wire.crcReflected s.crcAcc b } := by
  simp only [State.takeByte, State.putTarget, hf, Option.map_some, InFlight.putByte]

theorem takeByte_crc (hn : s.frFilled < 2) :
    s.takeByte .crc b rx = { s with
      rx := rx, frFilled := s.frFilled + 1
      frCrc0 := if s.frFilled = 0 then b else s.frCrc0
      frCrc1 := if s.frFilled = 0 then s.frCrc1 else b
      crcAcc := crcStep s.params.wire.crcReflected s.crcAcc b } := by
  by_cases h : s.frFilled = 0
  · simp only [State.takeByte, State.putTarget, if_pos h]
  · simp only [State.takeByte, State.putTarget, if_neg h, if_pos (show s.frFilled = 1 by omega)]

theorem takeByte_pay (hf : s.frSlot = some f) :
    s.takeByte .pay b rx = { s with
      rx := rx, frFilled := s.frFilled + 1
      frSlot := some { f with payload := f.payload.set s.frFilled (some b) }
      crcAcc := crcStep s.params.wire.crcReflected s.crcAcc b } := by
  simp only [State.takeByte, State.putTarget, hf, Option.map_some, InFlight.putByte]

/-- Settles O13: `deliver` on a waiting byte, and what taking the byte is for each buffer. -/
theorem armAndDeliver : Obligations.ArmAndDeliver := by
  unfold Obligations.ArmAndDeliver
  intro s t n b rx f
  refine ⟨fun _ => rfl, fun hrx hn =>
    ⟨fun ha => exec_deliver ha hrx hn, fun ha hf => ?_, fun ha h2 => ?_, fun ha hf _ => ?_⟩⟩
  · rw [exec_deliver ha hrx hn, takeByte_hdr hf]
  · rw [exec_deliver ha hrx hn, takeByte_crc (by omega)]
  · rw [exec_deliver ha hrx hn, takeByte_pay hf]

/-! ### Completion (R85, R89 to R93) -/

/-- A step of `transfer_complete` finds its armed block full (R85). -/
theorem transferComplete_spec (h : transferComplete? s = some t) : ∃ tgt, s.frArmed = some (tgt, s.frFilled) := by
  rw [transferComplete?] at h
  split at h
  · rename_i tgt n ha
    obtain ⟨rfl, -⟩ := Option.ite_none_right_eq_some.mp h
    exact ⟨tgt, ha⟩
  · cases h

theorem exec_transferComplete (h : transferComplete? s = some t) : exec .transferComplete s = .next t :=
  congrArg (stepOrWait s) h

section Full

variable (ha : s.frArmed = some (tgt, s.frFilled))

include ha

theorem transferComplete_awaitToken (hp : s.frPhase = .awaitToken) :
    transferComplete? s = some (completeToken { s with frArmed := none }) := by
  simp only [transferComplete_full ha, complete?, hp]

theorem transferComplete_awaitHeader (hp : s.frPhase = .awaitHeader) :
    transferComplete? s = some (captureCrc .awaitHeaderCrc { s with frArmed := none }) := by
  simp only [transferComplete_full ha, complete?, hp]

theorem transferComplete_awaitHeaderCrc (hp : s.frPhase = .awaitHeaderCrc) :
    transferComplete? s = some (completeHeaderCrc { s with frArmed := none }) := by
  simp only [transferComplete_full ha, complete?, hp]

theorem transferComplete_awaitPayload (hp : s.frPhase = .awaitPayload) :
    transferComplete? s = some (captureCrc .awaitPayloadCrc { s with frArmed := none }) := by
  simp only [transferComplete_full ha, complete?, hp]

theorem transferComplete_awaitPayloadCrc (hp : s.frPhase = .awaitPayloadCrc) :
    transferComplete? s = some (completePayloadCrc { s with frArmed := none }) := by
  simp only [transferComplete_full ha, complete?, hp]

end Full

/-- A slot is a scratch slot exactly when 32 messages wait (R98). -/
theorem allocSlot_eq (s : State) :
    s.allocSlot = { s with
      frSlot := some { id := none, size := none, payload := List.replicate 32 none
                       discard := decide (32 ≤ s.q.length) } } := by
  rw [State.allocSlot, ← decide_not]
  simp only [Config.queueCap, Nat.not_lt]
  rfl

/-- A start token opens a header (R89). -/
theorem completeToken_start (h : s.frTok = 0x7E#8) :
    completeToken s = { s.crcClear.allocSlot.arm .hdr 2 with frPhase := .awaitHeader } :=
  if_pos (beq_iff_eq.mpr h)

/-- Any other byte is discarded (R89). -/
theorem completeToken_other (h : s.frTok ≠ 0x7E#8) : completeToken s = awaitToken s :=
  if_neg fun he => h (beq_iff_eq.mp he)

/-- A payload is stored or dropped by its CRC (R93). -/
theorem completePayloadCrc_eq (s : State) :
    completePayloadCrc s =
      if s.frExpected = le16 s.frCrc0 s.frCrc1 then awaitToken s.storeSlot else awaitToken s.dropSlot := by
  simp only [completePayloadCrc, crcOk, beq_iff_eq]

/-- Settles O14: the transition of each of the three phases, disarmed. -/
theorem completionArmsTheNextBlock : Obligations.CompletionArmsTheNextBlock := by
  unfold Obligations.CompletionArmsTheNextBlock
  intro s t ha
  refine ⟨fun hp htok => ?_, fun hp htok => ?_, fun hp => ?_, fun hp => ?_⟩
  · rw [exec_transferComplete (transferComplete_awaitToken ha hp),
      completeToken_start (s := { s with frArmed := none }) htok, allocSlot_eq]
    rfl
  · rw [exec_transferComplete (transferComplete_awaitToken ha hp),
      completeToken_other (s := { s with frArmed := none }) htok, awaitToken, ← hp]
    rfl
  · exact exec_transferComplete (transferComplete_awaitHeader ha hp)
  · exact exec_transferComplete (transferComplete_awaitPayload ha hp)

/-- Settles O15: the transition of each of the two phases that check a CRC, with the slot stored or dropped. -/
theorem completionChecksTheCrc : Obligations.CompletionChecksTheCrc := by
  unfold Obligations.CompletionChecksTheCrc
  intro s t f id size ha hf hid hsize
  have hstore := storeSlot_some (s := { s with frArmed := none }) hf hid hsize
  refine ⟨fun hp => ?_, fun hp => ?_⟩
  · rw [exec_transferComplete (transferComplete_awaitHeaderCrc ha hp),
      completeHeaderCrc_eq (s := { s with frArmed := none }) hf hsize, hstore]
    split_ifs <;> rfl
  · rw [exec_transferComplete (transferComplete_awaitPayloadCrc ha hp), completePayloadCrc_eq, hstore]
    by_cases hc : s.frExpected = le16 s.frCrc0 s.frCrc1
    · cases f.discard <;> (simp only [hc]; rfl)
    · simp only [hc]
      rfl

/-! ### The frame (R84, R85, R97, R99) -/

theorem deliver_keeps_queue_and_phase (h : deliver? s = some t) : t.q = s.q ∧ t.frPhase = s.frPhase := by
  obtain ⟨rx, tok, c0, c1, slot, crc, n, rfl⟩ := deliver_frame h
  exact ⟨rfl, rfl⟩

theorem transferComplete_keeps_rx_and_token (h : transferComplete? s = some t) : t.rx = s.rx ∧ t.frTok = s.frTok := by
  obtain ⟨phase, armed, n, crc, expected, slot, q, draws, rfl⟩ := transferComplete_frame h
  exact ⟨rfl, rfl⟩

/-- Settles O57: the frames of the three operations, which may also wait, and a byte that is put nowhere. -/
theorem linkOperationsFrame : Obligations.LinkOperationsFrame := by
  unfold Obligations.LinkOperationsFrame
  intro s
  refine ⟨fun i t h => ⟨?_, ?_, ?_⟩, fun _ => rfl, fun target n b rx hrx ha hn hplace => ?_⟩
  · rintro (rfl | rfl | rfl)
    · rcases stepOrWait_next h with h | ⟨-, rfl⟩
      · obtain ⟨rx, tok, c0, c1, slot, crc, n, rfl⟩ := deliver_frame h
        rfl
      · rfl
    · rcases stepOrWait_next h with h | ⟨-, rfl⟩
      · obtain ⟨phase, armed, n, crc, expected, slot, q, draws, rfl⟩ := transferComplete_frame h
        rfl
      · rfl
    · obtain ⟨slot, q, draws, hs⟩ := storeSlot_frame s
      obtain rfl : s.storeSlot = t := Host.Outcome.next.inj h
      rw [hs]
  · rintro rfl
    rcases stepOrWait_next h with h | ⟨-, rfl⟩
    · exact deliver_keeps_queue_and_phase h
    · exact ⟨rfl, rfl⟩
  · rintro rfl
    rcases stepOrWait_next h with h | ⟨-, rfl⟩
    · exact transferComplete_keeps_rx_and_token h
    · exact ⟨rfl, rfl⟩
  · rw [exec_deliver ha hrx hn, State.takeByte, putTarget_nowhere b hplace]

/-! ### The steps that are no row of the table (R86, R88, R106, R159, R186) -/

theorem framerAction_init (hp : s.frPhase = .init) : framerAction s = .framerInit := if_pos hp

theorem ctxAAction_drained (hp : s.aPhase = .drain) (hm : s.aMsg = none) (hq : s.q = []) : ctxAAction s = .drained := by
  simp [ctxAAction, hp, hm, hq]

theorem ctxBAction_resume (hp : s.bPhase = .waitTick) (ht : s.tickDone = true) : ctxBAction s = .resume := by
  simp [ctxBAction, hp, ht]

theorem resumeB_ready (hp : s.bPhase = .waitTick) (ht : s.tickDone = true) :
    resumeB? s = some { s with tickDone := false, bPhase := .read } := if_pos ⟨hp, ht⟩

/-- The step of a running block whose scheduled agent does `a`. -/
theorem step_of_action {turn : Turn} {rest : List Turn} {a : Action} (h : stopped s = false) (hs : s.sched = turn :: rest)
    (ha : actionOf turn { s with sched := rest } = a) : step s = act a { s with sched := rest } := by
  rw [step_scheduled h hs, ha]

/-- Settles O4: for each turn, the action it is and the state that action leaves. -/
theorem agentsOwnSteps : Obligations.AgentsOwnSteps := by
  unfold Obligations.AgentsOwnSteps
  intro s rest h
  refine ⟨fun hs hp => step_of_action h hs (framerAction_init hp),
    fun hs hp hm hq => step_of_action h hs (ctxAAction_drained hp hm hq), fun hs hp ht => ?_,
    fun b hs => step_of_action h hs rfl, fun hs => step_of_action h hs rfl, fun i hs => ?_⟩
  · rw [step_of_action h hs (ctxBAction_resume hp ht), act, resumeB_ready (s := { s with sched := rest }) hp ht,
      stepOrWait_some]
  · rw [step_scheduled h hs, actionOf]
    cases s.params.lossy <;> rfl

end Sys2Proof.Machine
end

section
/-! PROOF. StepKeepsTheLink (spec/41_link_framer.md R94, spec/10_state.md R23, R24): which steps touch the framer or the queue
at all, then the framer's phase and the committed messages through each of those, and A's popped message (log 8). -/

open Sys2Proof Sys2Proof.Safety

namespace Sys2Proof.Machine

variable {s t : State} {tgt : Target} {n : Nat} {f : InFlight} {size : Byte}

/-! ### Which steps touch the framer and the queue -/

/-- Neither the framer's phase, armed block, count and slot nor the queue differ between the two states. -/
structure SameFramerAndQueue (s t : State) : Prop where
  frPhase : t.frPhase = s.frPhase
  frArmed : t.frArmed = s.frArmed
  frFilled : t.frFilled = s.frFilled
  frSlot : t.frSlot = s.frSlot
  q : t.q = s.q

/-- A render pass leaves the receive side alone (R132). -/
theorem render_sameFramerAndQueue (h : render? s = some t) : SameFramerAndQueue s t := by
  obtain ⟨-, ⟨-, rfl⟩ | ⟨g, lb, ext, bus, mode, -, -, -, -, -, ⟨-, rfl⟩ | ⟨prims, phase, f, -, rfl⟩⟩⟩ := render_spec h
  all_goals exact ⟨rfl, rfl, rfl, rfl, rfl⟩

/-- So does a scanline read (R161). -/
theorem scanlineRead_sameFramerAndQueue (h : scanlineRead? s = some t) : SameFramerAndQueue s t := by
  obtain ⟨-, -, ⟨-, rfl⟩ | ⟨g, -, ⟨px, bus, draws, -, -, rfl⟩ | ⟨x, y, -, -, rfl⟩⟩⟩ := scanlineRead_spec h
  all_goals exact ⟨rfl, rfl, rfl, rfl, rfl⟩

/-- So does every handler (R107). -/
theorem dispatch_sameFramerAndQueue (h : dispatch? s = some t) : SameFramerAndQueue s t := by
  obtain ⟨m, -, ⟨k, -, hk⟩ | ⟨-, rfl⟩⟩ := dispatch_spec h
  · obtain ⟨log, tx, mode, prims, color, r, w, -, rfl⟩ := runHandler_frame hk
    exact ⟨rfl, rfl, rfl, rfl, rfl⟩
  · exact ⟨rfl, rfl, rfl, rfl, rfl⟩

/-- Only the framer's three steps and `pop` can touch the framer or the queue. -/
theorem StepCase.sameFramerAndQueue_or (h : StepCase s t) :
    SameFramerAndQueue s t ∨ (s.frPhase = .init ∧ t = Machine.framerInit s) ∨ deliver? s = some t ∨
      transferComplete? s = some t ∨ pop? s = some t := by
  cases h with
  | framerInit hp h => exact .inr (.inl ⟨hp, h⟩)
  | deliver h => exact .inr (.inr (.inl h))
  | complete h => exact .inr (.inr (.inr (.inl h)))
  | pop _ h => exact .inr (.inr (.inr (.inr h)))
  | dispatch _ h => exact .inl (dispatch_sameFramerAndQueue h)
  | render h => exact .inl (render_sameFramerAndQueue h)
  | scanlineRead h => exact .inl (scanlineRead_sameFramerAndQueue h)
  | renderTick h => obtain ⟨-, -, rfl⟩ := renderTick_spec h; exact .inl ⟨rfl, rfl, rfl, rfl, rfl⟩
  | resume h => obtain ⟨-, -, rfl⟩ := resumeB_spec h; exact .inl ⟨rfl, rfl, rfl, rfl, rfl⟩
  | getSlot h => obtain ⟨-, req, phase, -, rfl⟩ := getSlot_spec h; exact .inl ⟨rfl, rfl, rfl, rfl, rfl⟩
  | submit h => obtain ⟨slot, -, -, rfl⟩ := submit_spec h; exact .inl ⟨rfl, rfl, rfl, rfl, rfl⟩
  | wait h | drained _ _ _ h | hostSend _ h | hostTake h | hostLose _ h =>
    subst h; exact .inl ⟨rfl, rfl, rfl, rfl, rfl⟩

theorem linkOk_congr (hs : linkOk s) (h : SameFramerAndQueue s t) : linkOk t := by
  obtain ⟨hp, ha, hn, hf, hq⟩ := h
  rwa [linkOk, framerInPhase, hp, ha, hn, hf, hq]

/-! ### The slot as it fills (R23, R84) -/

/-- The next payload byte makes the filled part of the payload one longer. -/
theorem slotHolds_set (h : slotHolds f size n) (hn : n < 32) (b : Byte) :
    slotHolds { f with payload := f.payload.set n (some b) } size (n + 1) := by
  obtain ⟨hid, hsize, hlen, hbytes⟩ := h
  refine ⟨hid, hsize, by rw [List.length_set, hlen], fun i hi => ?_⟩
  by_cases hin : i = n
  · exact ⟨b, by rw [hin, List.getElem?_set_self (hn.trans_eq hlen.symm)]⟩
  · rw [List.getElem?_set_ne (Ne.symm hin)]
    exact hbytes i (by omega)

/-- A full slot becomes a whole message (R24, R99). -/
theorem messageWhole_toMessage (h : slotHolds f size size.toNat) (hz : size.toNat ≤ 32) (draws : Nat) :
    messageWhole (f.toMessage draws) := by
  obtain ⟨-, hsize, hlen, hbytes⟩ := h
  rw [messageWhole, InFlight.toMessage, hsize]
  exact ⟨rfl, hz, hlen, hbytes⟩

/-! ### Delivery (R84, R94) -/

/-- Only one block is armed (R20). -/
theorem armed_unique {tgt' : Target} {n' : Nat} (ha : s.frArmed = some (tgt, n)) (ha' : s.frArmed = some (tgt', n')) :
    tgt = tgt' ∧ n = n' :=
  Prod.mk.inj (Option.some.inj (ha.symm.trans ha'))

theorem framerInPhase_deliver (hs : framerInPhase s) (h : deliver? s = some t) : framerInPhase t := by
  obtain ⟨-, hphase⟩ := deliver_keeps_queue_and_phase h
  obtain ⟨tgt, n, b, rx, ha, -, hn, rfl⟩ := deliver_spec h
  cases hp : s.frPhase <;> simp only [framerInPhase, hphase, hp] at hs ⊢
  case init => exact nomatch hs.1.symm.trans ha
  case awaitToken =>
    obtain ⟨harmed, -, hslot⟩ := hs
    obtain ⟨rfl, rfl⟩ := armed_unique ha harmed
    exact ⟨harmed, hn, hslot⟩
  case awaitHeader =>
    obtain ⟨harmed, -, f, hslot, hlen, hid, -⟩ := hs
    obtain ⟨rfl, rfl⟩ := armed_unique ha harmed
    rw [takeByte_hdr hslot]
    refine ⟨harmed, hn, _, rfl, ?_⟩
    by_cases h0 : s.frFilled = 0
    · simp [h0, hlen]
    · simp [h0, hlen, hid (by omega)]
  case awaitHeaderCrc =>
    obtain ⟨harmed, -, hslot⟩ := hs
    obtain ⟨rfl, rfl⟩ := armed_unique ha harmed
    rw [takeByte_crc hn]
    exact ⟨harmed, hn, hslot⟩
  case awaitPayload =>
    obtain ⟨f, size, hslot, h1, h32, -, harmed, hholds⟩ := hs
    obtain ⟨rfl, rfl⟩ := armed_unique ha harmed
    rw [takeByte_pay hslot]
    exact ⟨_, size, rfl, h1, h32, hn, harmed, slotHolds_set hholds (hn.trans_le h32) b⟩
  case awaitPayloadCrc =>
    obtain ⟨harmed, -, hslot⟩ := hs
    obtain ⟨rfl, rfl⟩ := armed_unique ha harmed
    rw [takeByte_crc hn]
    exact ⟨harmed, hn, hslot⟩

/-! ### Completion (R88 to R94) -/

/-- Back in AwaitToken the link is in order when no slot is left in flight. -/
theorem linkOk_awaitToken (hslot : s.frSlot = none) (hq : ∀ m, m ∈ s.q → messageWhole m) : linkOk (awaitToken s) :=
  ⟨⟨rfl, Nat.zero_le 1, hslot⟩, hq⟩

theorem linkOk_drop (hq : ∀ m, m ∈ s.q → messageWhole m) : linkOk (awaitToken s.dropSlot) := linkOk_awaitToken rfl hq

theorem linkOk_store (hq : ∀ m, m ∈ s.q → messageWhole m) (hf : s.frSlot = some f) (h : slotHolds f size size.toNat)
    (hz : size.toNat ≤ 32) : linkOk (awaitToken s.storeSlot) := by
  have hwhole := messageWhole_toMessage h hz 0
  obtain ⟨⟨id, hid⟩, hsize, -⟩ := h
  rw [InFlight.toMessage, hid, hsize] at hwhole
  rw [storeSlot_some hf hid hsize]
  refine linkOk_awaitToken rfl fun m hm => ?_
  cases hd : f.discard
  · simp only [hd, Bool.false_eq_true, if_false, List.mem_append, List.mem_singleton] at hm
    rcases hm with hm | rfl
    · exact hq m hm
    · exact hwhole
  · simp only [hd, if_true] at hm
    exact hq m hm

theorem linkOk_completeToken (hslot : s.frSlot = none) (hq : ∀ m, m ∈ s.q → messageWhole m) :
    linkOk (completeToken s) := by
  by_cases htok : s.frTok = 0x7E#8
  · rw [completeToken_start htok, allocSlot_eq]
    exact ⟨⟨rfl, Nat.zero_le 2, _, rfl, List.length_replicate, nofun, nofun⟩, hq⟩
  · rw [completeToken_other htok]
    exact linkOk_awaitToken hslot hq

theorem linkOk_completeHeaderCrc (hf : s.frSlot = some f) (h : slotHolds f size 0)
    (hq : ∀ m, m ∈ s.q → messageWhole m) : linkOk (completeHeaderCrc s) := by
  have ⟨_, hsize, _⟩ := h
  rw [completeHeaderCrc_eq hf hsize]
  split_ifs with hgood hz
  · exact linkOk_store hq hf (by rwa [hz]) hgood.2
  · exact ⟨⟨f, size, hf, by omega, hgood.2, Nat.zero_le _, rfl, h⟩, hq⟩
  · exact linkOk_drop hq

theorem linkOk_completePayloadCrc (hf : s.frSlot = some f) (h : slotHolds f size size.toNat) (hz : size.toNat ≤ 32)
    (hq : ∀ m, m ∈ s.q → messageWhole m) : linkOk (completePayloadCrc s) := by
  rw [completePayloadCrc_eq]
  split_ifs
  · exact linkOk_store hq hf h hz
  · exact linkOk_drop hq

/-- Every transition of R94 leads from one phase in order to the next. -/
theorem linkOk_transferComplete (hs : linkOk s) (h : transferComplete? s = some t) : linkOk t := by
  obtain ⟨tgt, ha⟩ := transferComplete_spec h
  obtain ⟨hs, hq⟩ := hs
  cases hp : s.frPhase <;> simp only [framerInPhase, hp] at hs
  case init => exact nomatch hs.1.symm.trans ha
  case awaitToken =>
    obtain ⟨-, -, hslot⟩ := hs
    cases (transferComplete_awaitToken ha hp).symm.trans h
    exact linkOk_completeToken hslot hq
  case awaitHeader =>
    obtain ⟨harmed, -, f, hslot, hlen, hid, hsize⟩ := hs
    obtain ⟨-, hfull⟩ := armed_unique ha harmed
    obtain ⟨size, hsize⟩ := hsize hfull.ge
    cases (transferComplete_awaitHeader ha hp).symm.trans h
    exact ⟨⟨rfl, Nat.zero_le 2, f, size, hslot, hid (by omega), hsize, hlen, nofun⟩, hq⟩
  case awaitHeaderCrc =>
    obtain ⟨-, -, f, size, hslot, hholds⟩ := hs
    cases (transferComplete_awaitHeaderCrc ha hp).symm.trans h
    exact linkOk_completeHeaderCrc hslot hholds hq
  case awaitPayload =>
    obtain ⟨f, size, hslot, h1, h32, -, harmed, hholds⟩ := hs
    obtain ⟨-, hfull⟩ := armed_unique ha harmed
    cases (transferComplete_awaitPayload ha hp).symm.trans h
    exact ⟨⟨rfl, Nat.zero_le 2, f, size, hslot, h1, h32, hfull ▸ hholds⟩, hq⟩
  case awaitPayloadCrc =>
    obtain ⟨-, -, f, size, hslot, -, h32, hholds⟩ := hs
    cases (transferComplete_awaitPayloadCrc ha hp).symm.trans h
    exact linkOk_completePayloadCrc hslot hholds h32 hq

theorem StepCase.keeps_linkOk (h : StepCase s t) (hs : linkOk s) : linkOk t := by
  rcases h.sameFramerAndQueue_or with h | ⟨hp, rfl⟩ | h | h | h
  · exact linkOk_congr hs h
  · obtain ⟨hphase, hq⟩ := hs
    simp only [framerInPhase, hp] at hphase
    exact linkOk_awaitToken hphase.2 hq
  · obtain ⟨hphase, hq⟩ := hs
    refine ⟨framerInPhase_deliver hphase h, ?_⟩
    rwa [(deliver_keeps_queue_and_phase h).1]
  · exact linkOk_transferComplete hs h
  · obtain ⟨hphase, hq⟩ := hs
    obtain ⟨m, rest, hcons, rfl⟩ := pop_spec h
    exact ⟨hphase, fun m' hm' => hq m' (by rw [hcons]; exact List.mem_cons_of_mem m hm')⟩

/-! ### A's popped message (R106; log 8) -/

theorem messageOnlyInDrain_of_none (h : t.aMsg = none) : messageOnlyInDrain t := fun hm => absurd h hm

theorem messageOnlyInDrain_congr (hs : messageOnlyInDrain s) (hm : t.aMsg = s.aMsg) (hp : t.aPhase = s.aPhase) :
    messageOnlyInDrain t := by
  rwa [messageOnlyInDrain, hm, hp]

/-- A pass runs outside the drain, and holds the message that A holds (R132). -/
theorem render_aMsg (h : render? s = some t) : s.aPhase ≠ .drain ∧ t.aMsg = s.aMsg := by
  refine ⟨fun hp => ?_, ?_⟩
  · rw [render?, hp] at h
    cases h
  · obtain ⟨-, ⟨-, rfl⟩ | ⟨g, lb, ext, bus, mode, -, -, -, -, -, ⟨-, rfl⟩ | ⟨prims, phase, f, -, rfl⟩⟩⟩ := render_spec h
    all_goals rfl

theorem scanlineRead_keepsA (h : scanlineRead? s = some t) : t.aMsg = s.aMsg ∧ t.aPhase = s.aPhase := by
  obtain ⟨-, -, ⟨-, rfl⟩ | ⟨g, -, ⟨px, bus, draws, -, -, rfl⟩ | ⟨x, y, -, -, rfl⟩⟩⟩ := scanlineRead_spec h
  all_goals exact ⟨rfl, rfl⟩

/-- `dispatch` takes the message (R107). -/
theorem dispatch_aMsg (h : dispatch? s = some t) : t.aMsg = none := by
  obtain ⟨m, -, ⟨k, -, hk⟩ | ⟨-, rfl⟩⟩ := dispatch_spec h
  · obtain ⟨log, tx, mode, prims, color, r, w, -, rfl⟩ := runHandler_frame hk
    rfl
  · rfl

/-- A gains a message only in a drain, and leaves the drain only without one. -/
theorem StepCase.keeps_messageOnlyInDrain (h : StepCase s t) (hs : messageOnlyInDrain s) : messageOnlyInDrain t := by
  cases h with
  | pop hp h => obtain ⟨m, rest, -, rfl⟩ := pop_spec h; exact fun _ => hp
  | dispatch _ h => exact messageOnlyInDrain_of_none (dispatch_aMsg h)
  | drained _ hm _ h => subst h; exact messageOnlyInDrain_of_none hm
  | renderTick h => obtain ⟨-, -, rfl⟩ := renderTick_spec h; exact fun _ => rfl
  | render h =>
    obtain ⟨hp, hm⟩ := render_aMsg h
    exact messageOnlyInDrain_of_none (hm.trans (Classical.not_not.mp fun hne => hp (hs hne)))
  | scanlineRead h => exact messageOnlyInDrain_congr hs (scanlineRead_keepsA h).1 (scanlineRead_keepsA h).2
  | deliver h =>
    obtain ⟨rx, tok, c0, c1, slot, crc, n, rfl⟩ := deliver_frame h
    exact hs
  | complete h =>
    obtain ⟨phase, armed, n, crc, expected, slot, q, draws, rfl⟩ := transferComplete_frame h
    exact hs
  | resume h => obtain ⟨-, -, rfl⟩ := resumeB_spec h; exact hs
  | getSlot h => obtain ⟨-, req, phase, -, rfl⟩ := getSlot_spec h; exact hs
  | submit h => obtain ⟨slot, -, -, rfl⟩ := submit_spec h; exact hs
  | wait h | framerInit _ h | hostSend _ h | hostTake h | hostLose _ h => subst h; exact hs

/-- Settles O49: by the cases of the step, in the state with the turn used up, which has the same link and the same A. -/
theorem stepKeepsTheLink : Obligations.StepKeepsTheLink := by
  unfold Obligations.StepKeepsTheLink
  intro s t h
  obtain ⟨-, sched, draws, hc⟩ := step_cases h
  exact ⟨fun hs => hc.keeps_linkOk (linkOk_congr hs ⟨rfl, rfl, rfl, rfl, rfl⟩), hc.keeps_messageOnlyInDrain⟩

end Sys2Proof.Machine
end

section
/-! PROOF. PayloadPacketIsStoredIffItsCrcMatches and HeaderAloneIsStoredOrDropped (spec/41_link_framer.md R96): runs of framer
turns put together block by block, each block its bytes and one completion. -/

open Sys2Proof

namespace Sys2Proof.Machine

variable {s t u : State} {tgt : Target} {j k n : Nat} {b id size c0 c1 : Byte} {bs rx tail payload : List Byte} {f : InFlight}

/-! ### Runs of framer turns -/

theorem run_add (h : Host.Core.run core j s = .next t) : Host.Core.run core (j + k) s = Host.Core.run core k t := by
  induction j generalizing s with
  | zero => cases h; rw [Nat.zero_add]
  | succ j ih =>
    rw [Nat.succ_add]
    simp only [Host.Core.run] at h ⊢
    split at h
    · exact ih h
    · cases h
    · cases h

/-- With `k` turns in a row the Framer takes the state `s` to `t`, whatever is scheduled after them. -/
def FramerTakes (k : Nat) (s t : State) : Prop :=
  ∀ rest, Host.Core.run core k { s with sched := List.replicate k .framer ++ rest } = .next { t with sched := rest }

theorem FramerTakes.trans (h : FramerTakes j s t) (h' : FramerTakes k t u) : FramerTakes (j + k) s u := fun rest => by
  rw [List.replicate_add, List.append_assoc, run_add (h _)]
  exact h' rest

/-- The run from a state that has the turns scheduled. -/
theorem FramerTakes.run {rest : List Turn} (h : FramerTakes k s t) (hs : s.sched = List.replicate k .framer ++ rest) :
    Host.Core.run core k s = .next { t with sched := rest } := by
  have hrun := h rest
  rwa [← hs] at hrun

/-- One turn of a running framer, as the instruction it performs. -/
theorem framerTakes_one {i : Instr} (hs : stopped s = false) (ha : framerAction s = .perform i)
    (hi : ∀ rest, exec i { s with sched := rest } = .next { t with sched := rest }) : FramerTakes 1 s t := fun rest => by
  have hstep : step { s with sched := .framer :: rest } = .next { t with sched := rest } :=
    (step_of_action (s := { s with sched := .framer :: rest }) hs rfl ha).trans (hi rest)
  simp only [List.replicate_one, List.singleton_append, Host.Core.run, core, hstep]

/-! ### The bytes of a block (R84) -/

/-- A running framer, past its first step, with a block of `n` bytes armed. -/
structure FramerArmed (tgt : Target) (n : Nat) (s : State) : Prop where
  running : stopped s = false
  phase : s.frPhase ≠ .init
  armed : s.frArmed = some (tgt, n)

theorem framerAction_deliver (h : FramerArmed tgt n s) (hn : s.frFilled < n) (hrx : s.rx ≠ []) :
    framerAction s = .perform .deliver := by
  simp only [framerAction, if_neg h.phase, h.armed, if_neg hn.ne, if_pos (And.intro hn hrx)]

theorem framerAction_transferComplete (h : FramerArmed tgt s.frFilled s) :
    framerAction s = .perform .transferComplete := by
  simp only [framerAction, if_neg h.phase, h.armed, if_true]

/-- A byte taken changes only the receive stream, the buffers, the count and the accumulator. -/
theorem takeByte_frame (s : State) (tgt : Target) (b : Byte) (rx : List Byte) :
    ∃ tok c0 c1 slot, s.takeByte tgt b rx = { s with
      rx := rx, frFilled := s.frFilled + 1, crcAcc := crcStep s.params.wire.crcReflected s.crcAcc b
      frTok := tok, frCrc0 := c0, frCrc1 := c1, frSlot := slot } := by
  obtain ⟨tok, c0, c1, slot, hp⟩ := putTarget_frame tgt b s
  exact ⟨tok, c0, c1, slot, by rw [State.takeByte, hp]⟩

/-- The schedule plays no part in taking a byte. -/
theorem takeByte_withSched (s : State) (tgt : Target) (b : Byte) (rx : List Byte) (rest : List Turn) :
    ({ s with sched := rest } : State).takeByte tgt b rx = { s.takeByte tgt b rx with sched := rest } := by
  cases tgt with
  | crc => simp only [State.takeByte, State.putTarget]; split_ifs <;> rfl
  | _ => rfl

theorem framerTakes_byte (h : FramerArmed tgt n s) (hn : s.frFilled < n) (hrx : s.rx = b :: rx) :
    FramerTakes 1 s (s.takeByte tgt b rx) := by
  refine framerTakes_one h.running (framerAction_deliver h hn (hrx ▸ List.cons_ne_nil b rx)) fun rest => ?_
  rw [exec_deliver (s := { s with sched := rest }) h.armed hrx hn, takeByte_withSched]

/-- The state once the bytes `bs` have gone to the armed buffer one after the other, with `tail` waiting behind them. -/
def State.takeBytes (tgt : Target) (tail : List Byte) : List Byte → State → State
  | [], s => { s with rx := tail }
  | b :: bs, s => State.takeBytes tgt tail bs (s.takeByte tgt b (bs ++ tail))

theorem framerArmed_takeByte (h : FramerArmed tgt n s) (b : Byte) (rx : List Byte) :
    FramerArmed tgt n (s.takeByte tgt b rx) := by
  obtain ⟨tok, c0, c1, slot, ht⟩ := takeByte_frame s tgt b rx
  obtain ⟨hs, hp, ha⟩ := h
  rw [ht]
  exact ⟨hs, hp, ha⟩

/-- The bytes of a block arrive in as many turns, and the block stays armed with its count risen. -/
theorem framerTakes_bytes (h : FramerArmed tgt n s) (hn : s.frFilled + bs.length ≤ n) (hrx : s.rx = bs ++ tail) :
    FramerTakes bs.length s (s.takeBytes tgt tail bs) ∧ FramerArmed tgt n (s.takeBytes tgt tail bs) ∧
      (s.takeBytes tgt tail bs).frFilled = s.frFilled + bs.length := by
  induction bs generalizing s with
  | nil =>
    rw [State.takeBytes, ← List.nil_append tail, ← hrx]
    exact ⟨fun _ => rfl, h, rfl⟩
  | cons b bs ih =>
    rw [List.length_cons] at hn ⊢
    have hfirst := framerTakes_byte h (by omega) hrx
    obtain ⟨tok, c0, c1, slot, ht⟩ := takeByte_frame s tgt b (bs ++ tail)
    have hfilled : (s.takeByte tgt b (bs ++ tail)).frFilled = s.frFilled + 1 := by rw [ht]
    obtain ⟨hrest, harmed, hcount⟩ :=
      ih (framerArmed_takeByte h b (bs ++ tail)) (by omega) (by rw [ht])
    rw [State.takeBytes]
    exact ⟨Nat.add_comm 1 _ ▸ hfirst.trans hrest, harmed, by omega⟩

/-- A whole block: its bytes, and the completion that finds it full. -/
theorem framerTakes_block (h : FramerArmed tgt bs.length s) (hn : s.frFilled = 0) (hrx : s.rx = bs ++ tail)
    (hc : ∀ rest, (s.takeBytes tgt tail bs).frArmed = some (tgt, (s.takeBytes tgt tail bs).frFilled) →
      exec .transferComplete { s.takeBytes tgt tail bs with sched := rest } = .next { t with sched := rest }) :
    FramerTakes (bs.length + 1) s t := by
  obtain ⟨hbytes, harmed, hcount⟩ := framerTakes_bytes h (by omega) hrx
  have hfull : FramerArmed tgt (s.takeBytes tgt tail bs).frFilled (s.takeBytes tgt tail bs) := by
    rwa [hcount, hn, Nat.zero_add]
  exact hbytes.trans (framerTakes_one harmed.running (framerAction_transferComplete hfull) fun rest => hc rest hfull.armed)

/-! ### What the bytes of a block leave in its buffer (R20, R84) -/

theorem takeBytes_hdr (hf : s.frSlot = some f) (hn : s.frFilled = 0) :
    s.takeBytes .hdr tail [id, size] = { s with
      rx := tail, frFilled := 2, frSlot := some { f with id := some id, size := some size }
      crcAcc := crcOver s.params.wire.crcReflected s.crcAcc [id, size] } := by
  simp only [State.takeBytes, takeByte_hdr hf, hn, if_true]
  rw [takeByte_hdr rfl]
  rfl

/-- The state with a block's two CRC bytes in their buffer, and `tail` waiting behind them. -/
def State.withCrcBytes (c0 c1 : Byte) (tail : List Byte) (s : State) : State :=
  { s with
    rx := tail, frFilled := 2, frCrc0 := c0, frCrc1 := c1
    crcAcc := crcOver s.params.wire.crcReflected s.crcAcc [c0, c1] }

theorem takeBytes_crc (hn : s.frFilled = 0) : s.takeBytes .crc tail [c0, c1] = s.withCrcBytes c0 c1 tail := by
  have hlt : s.frFilled < 2 := by omega
  simp only [State.takeBytes, takeByte_crc hlt, hn, if_true]
  rw [takeByte_crc Nat.one_lt_two]
  rfl

/-- Payload bytes are written from the fill count on. -/
theorem takeBytes_pay (hf : s.frSlot = some f) (hn : s.frFilled + bs.length ≤ f.payload.length) :
    s.takeBytes .pay tail bs = { s with
      rx := tail, frFilled := s.frFilled + bs.length
      frSlot := some { f with
        payload := f.payload.take s.frFilled ++ bs.map some ++ f.payload.drop (s.frFilled + bs.length) }
      crcAcc := crcOver s.params.wire.crcReflected s.crcAcc bs } := by
  induction bs generalizing s f with
  | nil =>
    simp only [State.takeBytes, List.map_nil, List.append_nil, List.length_nil, Nat.add_zero, List.take_append_drop, crcOver]
    rw [← hf]
  | cons b bs ih =>
    rw [List.length_cons] at hn
    have htake : (f.payload.set s.frFilled (some b)).take (s.frFilled + 1) = f.payload.take s.frFilled ++ [some b] := by
      rw [List.take_add_one, List.take_set_of_le le_rfl, List.getElem?_set_self (by omega)]
      rfl
    have hdrop : (f.payload.set s.frFilled (some b)).drop (s.frFilled + 1 + bs.length) =
        f.payload.drop (s.frFilled + (bs.length + 1)) := by
      rw [List.drop_set_of_lt (by omega), Nat.add_assoc, Nat.add_comm 1]
    rw [State.takeBytes, takeByte_pay hf, ih rfl (by rw [List.length_set]; simp only; omega)]
    simp only [htake, hdrop, List.append_assoc, List.cons_append, List.nil_append, List.map_cons, List.length_cons, crcOver]
    rw [Nat.add_assoc, Nat.add_comm 1]

/-! ### The blocks of a packet (R89 to R94) -/

/-- The start token opens a header; with room in the queue its slot is a real one (R89, R98). -/
theorem framerTakes_token (h : FramerArmed .tok 1 s) (hp : s.frPhase = .awaitToken) (hn : s.frFilled = 0)
    (hq : s.q.length < 32) (hrx : s.rx = 0x7E#8 :: tail) :
    FramerTakes 2 s { s with
      rx := tail, frTok := 0x7E#8, crcAcc := 0x0000#16, frArmed := some (.hdr, 2), frFilled := 0, frPhase := .awaitHeader
      frSlot := some { id := none, size := none, payload := List.replicate 32 none, discard := false } } := by
  refine framerTakes_block (bs := [0x7E#8]) h hn hrx fun rest hfull => ?_
  obtain ⟨hstart, -, -, -⟩ := completionArmsTheNextBlock { s.takeBytes .tok tail [0x7E#8] with sched := rest } .tok hfull
  rw [hstart hp rfl, ← decide_eq_false (Nat.not_le.mpr hq)]
  rfl

/-- The header's two bytes arrive and their CRC is captured (R90). -/
theorem framerTakes_header (h : FramerArmed .hdr 2 s) (hp : s.frPhase = .awaitHeader) (hn : s.frFilled = 0)
    (hf : s.frSlot = some f) (hrx : s.rx = id :: size :: tail) :
    FramerTakes 3 s { s with
      rx := tail, frSlot := some { f with id := some id, size := some size }
      crcAcc := crcOver s.params.wire.crcReflected s.crcAcc [id, size]
      frExpected := crcOver s.params.wire.crcReflected s.crcAcc [id, size]
      frArmed := some (.crc, 2), frFilled := 0, frPhase := .awaitHeaderCrc } := by
  refine framerTakes_block (bs := [id, size]) h hn hrx fun rest hfull => ?_
  obtain ⟨-, -, hcapture, -⟩ :=
    completionArmsTheNextBlock { s.takeBytes .hdr tail [id, size] with sched := rest } .hdr hfull
  rw [takeBytes_hdr hf hn] at hcapture ⊢
  exact hcapture hp

/-- The payload arrives at the front of the slot's, and its CRC is captured (R92). -/
theorem framerTakes_payload (h : FramerArmed .pay payload.length s) (hp : s.frPhase = .awaitPayload)
    (hn : s.frFilled = 0) (hf : s.frSlot = some f) (hlen : payload.length ≤ f.payload.length) (hrx : s.rx = payload ++ tail) :
    FramerTakes (payload.length + 1) s { s with
      rx := tail, frSlot := some { f with payload := payload.map some ++ f.payload.drop payload.length }
      crcAcc := crcOver s.params.wire.crcReflected s.crcAcc payload
      frExpected := crcOver s.params.wire.crcReflected s.crcAcc payload
      frArmed := some (.crc, 2), frFilled := 0, frPhase := .awaitPayloadCrc } := by
  refine framerTakes_block h hn hrx fun rest hfull => ?_
  obtain ⟨-, -, -, hcapture⟩ :=
    completionArmsTheNextBlock { s.takeBytes .pay tail payload with sched := rest } .pay hfull
  rw [takeBytes_pay hf (by omega)] at hcapture ⊢
  simp only [hn, List.take_zero, List.nil_append, Nat.zero_add] at hcapture ⊢
  exact hcapture hp

/-- The two CRC bytes of a block arrive, and their completion decides. -/
theorem framerTakes_crc (h : FramerArmed .crc 2 s) (hn : s.frFilled = 0) (hrx : s.rx = c0 :: c1 :: tail)
    (hc : ∀ rest, exec .transferComplete { s.withCrcBytes c0 c1 tail with sched := rest } = .next { t with sched := rest }) :
    FramerTakes 3 s t :=
  framerTakes_block (bs := [c0, c1]) h hn hrx fun rest _ => by
    rw [takeBytes_crc hn]
    exact hc rest

section Crc

variable (h : FramerArmed .crc 2 s) (hn : s.frFilled = 0) (hf : s.frSlot = some f) (hid : f.id = some id)
  (hsize : f.size = some size) (hrx : s.rx = c0 :: c1 :: tail)

include h hn hf hid hsize hrx

/-- A good header of 1 to 32 bytes arms its payload (R91). -/
theorem framerTakes_headerCrc_payload (hp : s.frPhase = .awaitHeaderCrc) (hgood : s.frExpected = le16 c0 c1)
    (h0 : size.toNat ≠ 0) (h32 : size.toNat ≤ 32) :
    FramerTakes 3 s { s with
      rx := tail, frCrc0 := c0, frCrc1 := c1, crcAcc := 0x0000#16
      frArmed := some (.pay, size.toNat), frFilled := 0, frPhase := .awaitPayload } := by
  refine framerTakes_crc h hn hrx fun rest => ?_
  obtain ⟨hheader, -⟩ := completionChecksTheCrc { s.withCrcBytes c0 c1 tail with sched := rest } .crc f id size
    h.armed hf hid hsize
  exact (hheader hp).trans ((if_pos ⟨hgood, h32⟩).trans (if_neg h0))

/-- Any other header ends its packet: one of size 0 with a good CRC is stored, the others are dropped (R91). -/
theorem framerTakes_headerCrc_end (hp : s.frPhase = .awaitHeaderCrc) (hd : f.discard = false)
    (hend : size.toNat = 0 ∨ 32 < size.toNat ∨ s.frExpected ≠ le16 c0 c1) :
    FramerTakes 3 s { s with
      rx := tail, frCrc0 := c0, frCrc1 := c1, crcAcc := crcOver s.params.wire.crcReflected s.crcAcc [c0, c1]
      q := if s.frExpected = le16 c0 c1 ∧ size.toNat = 0 then
             s.q ++ [{ id := id, size := size, payload := f.payload, received := true }]
           else s.q
      frSlot := none, frArmed := some (.tok, 1), frFilled := 0, frPhase := .awaitToken } := by
  refine framerTakes_crc h hn hrx fun rest => ?_
  obtain ⟨hheader, -⟩ := completionChecksTheCrc { s.withCrcBytes c0 c1 tail with sched := rest } .crc f id size
    h.armed hf hid hsize
  refine (hheader hp).trans ?_
  by_cases hempty : s.frExpected = le16 c0 c1 ∧ size.toNat = 0
  · have ⟨hgood, h0⟩ := hempty
    refine (if_pos ⟨hgood, by omega⟩).trans ((if_pos h0).trans ?_)
    rw [if_pos hempty, hd]
    rfl
  · have hbad : ¬(s.frExpected = le16 c0 c1 ∧ size.toNat ≤ 32) := by
      rintro ⟨hgood, h32⟩
      rcases hend with h0 | hlarge | hcrc
      · exact hempty ⟨hgood, h0⟩
      · omega
      · exact hcrc hgood
    rw [if_neg hempty]
    exact if_neg hbad

/-- A payload is stored exactly if its CRC matches, which ends the packet (R93). -/
theorem framerTakes_payloadCrc (hp : s.frPhase = .awaitPayloadCrc) (hd : f.discard = false) :
    FramerTakes 3 s { s with
      rx := tail, frCrc0 := c0, frCrc1 := c1, crcAcc := crcOver s.params.wire.crcReflected s.crcAcc [c0, c1]
      q := if s.frExpected = le16 c0 c1 then
             s.q ++ [{ id := id, size := size, payload := f.payload, received := true }]
           else s.q
      frSlot := none, frArmed := some (.tok, 1), frFilled := 0, frPhase := .awaitToken } := by
  refine framerTakes_crc h hn hrx fun rest => ?_
  obtain ⟨-, hpayload⟩ := completionChecksTheCrc { s.withCrcBytes c0 c1 tail with sched := rest } .crc f id size
    h.armed hf hid hsize
  refine (hpayload hp).trans ?_
  simp only [hd, and_true]
  rfl

end Crc

/-! ### Whole packets (R96) -/

/-- The token and the header of a packet, up to the header's CRC. -/
theorem framerTakes_tokenAndHeader (h : FramerArmed .tok 1 s) (hp : s.frPhase = .awaitToken) (hn : s.frFilled = 0)
    (hq : s.q.length < 32) (hrx : s.rx = 0x7E#8 :: id :: size :: tail) :
    FramerTakes 5 s { s with
      rx := tail, frTok := 0x7E#8
      frSlot := some { id := some id, size := some size, payload := List.replicate 32 none, discard := false }
      crcAcc := crc16 s.params.wire.crcReflected [id, size], frExpected := crc16 s.params.wire.crcReflected [id, size]
      frArmed := some (.crc, 2), frFilled := 0, frPhase := .awaitHeaderCrc } :=
  (framerTakes_token h hp hn hq hrx).trans (framerTakes_header ⟨h.running, nofun, rfl⟩ rfl rfl rfl rfl)

/-- Settles O18: the token and the header, and the header's CRC, which ends the packet. -/
theorem headerAloneIsStoredOrDropped : Obligations.HeaderAloneIsStoredOrDropped := by
  unfold Obligations.HeaderAloneIsStoredOrDropped
  intro s id size c0 c1 tail rest hs hp ha hn hq hend hrx hsched
  obtain ⟨hfault, -⟩ := stopped_eq_false hs
  have hheader := framerTakes_tokenAndHeader ⟨hs, by rw [hp]; nofun, ha⟩ hp hn hq hrx
  have hpacket := hheader.trans (framerTakes_headerCrc_end ⟨hs, nofun, rfl⟩ rfl rfl rfl rfl rfl rfl rfl hend)
  exact ⟨_, hpacket.run hsched, rfl, rfl, rfl, rfl, rfl, rfl, rfl, rfl, rfl, hfault⟩

/-- Settles O17: the token and a good header, its CRC, the payload, and its CRC, which ends the packet. -/
theorem payloadPacketIsStoredIffItsCrcMatches : Obligations.PayloadPacketIsStoredIffItsCrcMatches := by
  unfold Obligations.PayloadPacketIsStoredIffItsCrcMatches
  intro s id c0 c1 payload tail rest hs hp ha hn hq h1 h32 hrx hsched
  obtain ⟨hfault, -⟩ := stopped_eq_false hs
  have hsize : (BitVec.ofNat 8 payload.length).toNat = payload.length := by
    rw [BitVec.toNat_ofNat]; omega
  have hturns : payload.length + 12 = 5 + 3 + (payload.length + 1) + 3 := by omega
  simp only [List.append_assoc] at hrx
  rw [hturns] at hsched ⊢
  rw [← List.drop_replicate]
  have hheader := framerTakes_tokenAndHeader ⟨hs, by rw [hp]; nofun, ha⟩ hp hn hq hrx
  have hheaderCrc := hheader.trans (framerTakes_headerCrc_payload ⟨hs, nofun, rfl⟩ rfl rfl rfl rfl rfl rfl
    (le16_le16bytes _).symm (by omega) (by omega))
  have hpayload := hheaderCrc.trans (framerTakes_payload
    ⟨hs, nofun, congrArg (fun n => some (Target.pay, n)) hsize⟩ rfl rfl rfl (by rw [List.length_replicate]; exact h32) rfl)
  have hpacket := hpayload.trans (framerTakes_payloadCrc ⟨hs, nofun, rfl⟩ rfl rfl rfl rfl rfl rfl rfl)
  exact ⟨_, hpacket.run hsched, rfl, rfl, rfl, rfl, rfl, rfl, rfl, rfl, rfl, hfault⟩

end Sys2Proof.Machine
end

section
/-! PROOF. SlotOperations (spec/42_message_fifo.md R98 to R100): the three instructions on the in-flight slot, by what
`allocSlot_eq` and `storeSlot_some` say of the slot. -/

open Sys2Proof

namespace Sys2Proof.Machine

variable {s : State} {f : InFlight} {id size : Byte}

/-- The slot `alloc_slot` opens is empty, and a scratch slot exactly when 32 messages wait (R98). -/
theorem exec_allocSlot (s : State) :
    exec .allocSlot s = .next { s with
      frSlot := some { id := none, size := none, payload := List.replicate 32 none,
                       discard := decide (32 ≤ s.q.length) } } :=
  congrArg Host.Outcome.next (allocSlot_eq s)

/-- A slot whose header has arrived leaves the framer, and its message joins the queue unless it is a scratch slot (R99). -/
theorem exec_store (h : s.frSlot = some f) (hid : f.id = some id) (hsize : f.size = some size) :
    exec .store s = .next { s with
      frSlot := none
      q := if f.discard then s.q
           else s.q ++ [{ id := id, size := size, payload := f.payload, received := true }] } :=
  congrArg Host.Outcome.next (storeSlot_some h hid hsize)

/-- A dropped slot is forgotten; the committed messages stay (R100). -/
theorem exec_drop (s : State) : exec .drop s = .next { s with frSlot := none } := rfl

/-- Settles O16: the next state of each of the three instructions. -/
theorem slotOperations : Obligations.SlotOperations := by
  unfold Obligations.SlotOperations
  intro s f id size
  exact ⟨exec_allocSlot s, exec_drop s, exec_store⟩

end Sys2Proof.Machine
end

section
/-! PROOF. ModeChangeIsAllOrNothing, DrawingCommands, MeshCommands, SwapsExchangeTheIds, InfoRequestAnswersWithTheState and
UnknownIdsAndInfoResponses (spec/43_dispatcher.md R109 to R123): what each wire command does in each mode, said once. -/

open Sys2Proof

namespace Sys2Proof.Machine

variable {s : State} {p : Params} {mode depth palette font : Byte} {w h : Word16} {color : Pixel} {g : Screen} {m : Scene}

/-! ### The mode that MODE_CHANGE asks for (R112) -/

/-- A legal depth whose planes fit makes a screen. -/
theorem legalScreen_of_fits {d : Depth} (hd : Depth.ofNat? depth.toNat = some d)
    (hlo : h.toNat * stride w.toNat d.bits ≤ p.planeOffset)
    (hhi : p.planeOffset + h.toNat * stride w.toNat d.bits ≤ p.extMemSize) :
    legalScreen? p w h depth palette =
      some { width := w, height := h, depth := d, palette := decide (palette ≠ 0#8) } := by
  have hpal : (palette != 0#8) = decide (palette ≠ 0#8) := by simp [bne, Bool.beq_eq_decide_eq]
  simp only [legalScreen?, hd, hpal]
  exact if_pos (planesFit_iff.mpr ⟨hlo, hhi⟩)

/-- The screen a mode change makes has the operands' size, and its planes fit. -/
theorem legalScreen_spec (hg : legalScreen? p w h depth palette = some g) :
    g.width = w ∧ g.height = h ∧ depth.toNat = g.depth.bits ∧ planesFit p g = true := by
  rw [legalScreen?] at hg
  split at hg
  · cases hg
  · rename_i d hd
    obtain ⟨hfit, hg⟩ := Option.ite_none_right_eq_some.mp hg
    cases hg
    exact ⟨rfl, rfl, Depth.ofNat?_bits hd, hfit⟩

/-- A depth that is none of the six, or planes that do not fit, make none. -/
theorem legalScreen_eq_none
    (hbad : depth.toNat ∉ [1, 2, 4, 8, 12, 16] ∨ p.planeOffset < h.toNat * stride w.toNat depth.toNat ∨
      p.extMemSize < p.planeOffset + h.toNat * stride w.toNat depth.toNat) : legalScreen? p w h depth palette = none := by
  refine Option.eq_none_iff_forall_ne_some.mpr fun g hg => ?_
  obtain ⟨rfl, rfl, hd, hfit⟩ := legalScreen_spec hg
  obtain ⟨hlo, hhi⟩ := planesFit_iff.mp hfit
  rw [hd] at hbad
  rcases hbad with hn | hn | hn
  · exact hn (by cases g.depth <;> decide)
  · exact absurd hlo (Nat.not_le.mpr hn)
  · exact absurd hhi (Nat.not_le.mpr hn)

theorem newMode_text (hw : w ≠ 0#16) (hh : h ≠ 0#16) (hm : mode.toNat = 0) :
    newMode? p mode w h depth palette font = some (.text w h font) := by
  simp only [newMode?, hw, hh, hm, or_self, if_false]

theorem newMode_graphic2D (hw : w ≠ 0#16) (hh : h ≠ 0#16) (hm : mode.toNat = 1) :
    newMode? p mode w h depth palette font = (legalScreen? p w h depth palette).map .graphic2D := by
  simp only [newMode?, hw, hh, hm, or_self, if_false]

theorem newMode_graphic3D (hw : w ≠ 0#16) (hh : h ≠ 0#16) (hm : mode.toNat = 2) :
    newMode? p mode w h depth palette font =
      (legalScreen? p w h depth palette).map fun g => .graphic3D g Scene.fresh := by
  simp only [newMode?, hw, hh, hm, or_self, if_false]

/-- Operands that pass the test have a size, and name one of the three modes. -/
theorem newMode_spec {new : Mode} (hn : newMode? p mode w h depth palette font = some new) :
    w ≠ 0#16 ∧ h ≠ 0#16 ∧
      ((mode.toNat = 0 ∧ new = .text w h font) ∨
        ∃ g, legalScreen? p w h depth palette = some g ∧
          ((mode.toNat = 1 ∧ new = .graphic2D g) ∨ (mode.toNat = 2 ∧ new = .graphic3D g Scene.fresh))) := by
  rw [newMode?] at hn
  obtain ⟨hsize, hn⟩ := Option.ite_none_left_eq_some.mp hn
  obtain ⟨hw, hh⟩ := not_or.mp hsize
  refine ⟨hw, hh, ?_⟩
  split at hn
  · exact .inl ⟨‹_›, (Option.some.inj hn).symm⟩
  · obtain ⟨g, hg, rfl⟩ := Option.map_eq_some_iff.mp hn
    exact .inr ⟨g, hg, .inl ⟨‹_›, rfl⟩⟩
  · obtain ⟨g, hg, rfl⟩ := Option.map_eq_some_iff.mp hn
    exact .inr ⟨g, hg, .inr ⟨‹_›, rfl⟩⟩
  · cases hn

/-- Operands that are not valid fail the test. -/
theorem newMode_eq_none
    (hbad : 2 < mode.toNat ∨ w = 0#16 ∨ h = 0#16 ∨ (mode.toNat ≠ 0 ∧ (depth.toNat ∉ [1, 2, 4, 8, 12, 16] ∨
      p.planeOffset < h.toNat * stride w.toNat depth.toNat ∨
      p.extMemSize < p.planeOffset + h.toNat * stride w.toNat depth.toNat))) :
    newMode? p mode w h depth palette font = none := by
  refine Option.eq_none_iff_forall_ne_some.mpr fun new hn => ?_
  obtain ⟨hw, hh, hnew⟩ := newMode_spec hn
  rcases hbad with hmode | hw' | hh' | ⟨hmode, hscreen⟩
  · rcases hnew with ⟨hm, -⟩ | ⟨g, -, ⟨hm, -⟩ | ⟨hm, -⟩⟩ <;> omega
  · exact hw hw'
  · exact hh hh'
  · rcases hnew with ⟨hm, -⟩ | ⟨g, hg, -⟩
    · exact hmode hm
    · cases (legalScreen_eq_none hscreen).symm.trans hg

/-- MODE_CHANGE with operands that pass the test enters the mode under the lock, which is given back. -/
theorem exec_modeChange_valid {new : Mode} (hl : s.lock = .free)
    (hn : newMode? s.params mode w h depth palette font = some new) :
    exec (.modeChange mode w h depth palette font) s = .next { s with prims := [], mode := new } := by
  have hc : modeChange? mode w h depth palette font s = some { s with prims := [], mode := new } := by
    simp only [modeChange?, hn, acquireLock_free hl]
    rw [releaseLock_held rfl, ← hl]
  exact congrArg (stepOrWait s) hc

/-- With operands that fail it MODE_CHANGE logs, whatever holds the lock. -/
theorem exec_modeChange_invalid (hn : newMode? s.params mode w h depth palette font = none) :
    exec (.modeChange mode w h depth palette font) s = .next (s.logEvent .invalidMode) := by
  have hc : modeChange? mode w h depth palette font s = some (s.logEvent .invalidMode) := by
    simp only [modeChange?, hn]
  exact congrArg (stepOrWait s) hc

/-- Settles O19: the mode each kind of operands asks for, and MODE_CHANGE with it or without. -/
theorem modeChangeIsAllOrNothing : Obligations.ModeChangeIsAllOrNothing := by
  unfold Obligations.ModeChangeIsAllOrNothing
  intro s mode depth palette font w h
  refine ⟨fun hl hw hh hm => exec_modeChange_valid hl (newMode_text hw hh hm),
    fun d hl hw hh hd hlo hhi => ⟨fun hm => exec_modeChange_valid hl ?_, fun hm => exec_modeChange_valid hl ?_⟩,
    fun hbad => exec_modeChange_invalid (newMode_eq_none hbad)⟩
  · rw [newMode_graphic2D hw hh hm, legalScreen_of_fits hd hlo hhi, Option.map_some]
  · rw [newMode_graphic3D hw hh hm, legalScreen_of_fits hd hlo hhi, Option.map_some]
    rfl

/-! ### Drawing (R113 to R116) -/

/-- A 16-bit coordinate survives the way through the integers (R10, R72). -/
@[simp] theorem u16_coord (v : Word16) : u16 (coord v) = v := by simp [u16, coord]

theorem isGraphic_of_screen (hg : s.mode.screen? = some g) : isGraphic s.mode = true := by rw [isGraphic, hg]; rfl

theorem isGraphic_of_text (ht : s.mode.screen? = none) : isGraphic s.mode = false := by rw [isGraphic, ht]; rfl

/-- Settles O20: each command's own test of the mode, which is that of a screen. -/
theorem drawingCommands : Obligations.DrawingCommands := by
  unfold Obligations.DrawingCommands
  intro s x0 y0 x1 y1 x2 y2 color
  refine ⟨fun ⟨g, hg⟩ => ?_, fun ht => ?_⟩
  · have hgr := isGraphic_of_screen hg
    have htri : exec (.drawTriangle x0 y0 x1 y1 x2 y2 color) s =
        exec (.addTriangle ⟨x0.toNat, y0.toNat⟩ ⟨x1.toNat, y1.toNat⟩ ⟨x2.toNat, y2.toNat⟩ color) s :=
      congrArg Host.Outcome.next (if_pos hgr)
    refine ⟨congrArg Host.Outcome.next ((if_pos hgr).trans ?_), congrArg Host.Outcome.next (if_pos hgr), htri,
      ⟨_, htri⟩, congrArg Host.Outcome.next (if_pos hgr)⟩
    simp only [pointSpan, u16_coord]
    rfl
  · have hgr := ne_true_of_eq_false (isGraphic_of_text ht)
    exact ⟨congrArg Host.Outcome.next (if_neg hgr), congrArg Host.Outcome.next (if_neg hgr),
      congrArg Host.Outcome.next (if_neg hgr), congrArg Host.Outcome.next (if_neg hgr)⟩

/-! ### The mesh and the projection (R118 to R121) -/

theorem beginPrimitives_scene (hm : s.mode = .graphic3D g m) :
    beginPrimitives s = { s with mode := .graphic3D g { m with mesh := [], meshState := .open_ } } := by
  simp only [beginPrimitives, hm]

theorem endPrimitives_scene (hm : s.mode = .graphic3D g m) :
    endPrimitives s =
      if m.meshState = .open_ then { s with mode := .graphic3D g { m with meshState := .closed } }
      else s.logEvent .meshNotOpen := by
  simp only [endPrimitives, hm]

theorem writeVertex_scene {x y z : F32} (hm : s.mode = .graphic3D g m) :
    writeVertex x y z color s =
      if m.meshState = .open_ then { s with mode := .graphic3D g { m with mesh := m.mesh ++ [⟨x, y, z, color⟩] } }
      else s.logEvent .meshNotOpen := by
  simp only [writeVertex, hm]

theorem setPerspective_scene {viewAngle aspect zNear zFar : F32} (hm : s.mode = .graphic3D g m) :
    setPerspective viewAngle aspect zNear zFar s =
      { s with mode := .graphic3D g { m with proj := perspective viewAngle aspect zNear zFar } } := by
  simp only [setPerspective, hm]

section NoScene
variable (hm : ∀ g m, s.mode ≠ .graphic3D g m)
include hm

/-- What a command does by a match on a mode that has no scene, it does for each of the two others. -/
theorem eq_of_noScene {f : State → State} {u : State} (h2 : ∀ g, s.mode = .graphic2D g → f s = u)
    (ht : ∀ w h font, s.mode = .text w h font → f s = u) : f s = u := by
  cases hs : s.mode with
  | text w h font => exact ht w h font hs
  | graphic2D g => exact h2 g hs
  | graphic3D g m => exact absurd hs (hm g m)

theorem beginPrimitives_noScene : beginPrimitives s = wrongMode .beginPrimitives s :=
  eq_of_noScene hm (fun _ h => by simp only [beginPrimitives, h]) (fun _ _ _ h => by simp only [beginPrimitives, h])

theorem endPrimitives_noScene : endPrimitives s = wrongMode .endPrimitives s :=
  eq_of_noScene hm (fun _ h => by simp only [endPrimitives, h]) (fun _ _ _ h => by simp only [endPrimitives, h])

theorem writeVertex_noScene (x y z : F32) (color : Pixel) : writeVertex x y z color s = wrongMode .writeVertex s :=
  eq_of_noScene hm (fun _ h => by simp only [writeVertex, h]) (fun _ _ _ h => by simp only [writeVertex, h])

theorem setPerspective_noScene (viewAngle aspect zNear zFar : F32) :
    setPerspective viewAngle aspect zNear zFar s = wrongMode .setPerspective s :=
  eq_of_noScene hm (fun _ h => by simp only [setPerspective, h]) (fun _ _ _ h => by simp only [setPerspective, h])

end NoScene

/-- Settles O21: the four commands on a scene, by the state of its mesh, and without one. -/
theorem meshCommands : Obligations.MeshCommands := by
  unfold Obligations.MeshCommands
  intro s x y z color angle aspect near far
  refine ⟨fun g m hm => ⟨congrArg Host.Outcome.next (beginPrimitives_scene hm),
    congrArg Host.Outcome.next (setPerspective_scene hm), fun ho => ?_, fun ho => ?_⟩, fun hm => ?_⟩
  · exact ⟨congrArg Host.Outcome.next ((endPrimitives_scene hm).trans (if_pos ho)),
      congrArg Host.Outcome.next ((writeVertex_scene hm).trans (if_pos ho))⟩
  · exact ⟨congrArg Host.Outcome.next ((endPrimitives_scene hm).trans (if_neg ho)),
      congrArg Host.Outcome.next ((writeVertex_scene hm).trans (if_neg ho))⟩
  · exact ⟨congrArg Host.Outcome.next (beginPrimitives_noScene hm), congrArg Host.Outcome.next (endPrimitives_noScene hm),
      congrArg Host.Outcome.next (writeVertex_noScene hm x y z color),
      congrArg Host.Outcome.next (setPerspective_noScene hm angle aspect near far)⟩

/-! ### The buffer ids (R117, R155) -/

/-- Settles O22: with the lock free the command is the swap. -/
theorem swapsExchangeTheIds : Obligations.SwapsExchangeTheIds := by
  unfold Obligations.SwapsExchangeTheIds
  exact fun s => ⟨fun hl => congrArg (stepOrWait s) (swapBuffer_free hl), rfl⟩

/-! ### Packets to the Host and unknown ids (R109, R122, R123) -/

/-- The operands of an INFO_RESPONSE are the fields of its payload (R71). -/
theorem infoResponseOf_bytes (dir : Direction) (mode : Byte) (width height : Word16) (depth readId writeId : Byte) :
    infoResponseOf dir (infoResponseBytes mode width height depth readId writeId) =
      .infoResponse dir mode width height depth readId writeId := by
  simp [infoResponseOf, infoResponseBytes, u16At, u8At, le16bytes]

/-- The packet of an INFO_RESPONSE decodes to it under every id map, for no other id is looked up first (R71, R73). -/
theorem decode_infoResponse (wire : Wire) (dir : Direction) (stale : Nat → Byte) (mode : Byte) (width height : Word16)
    (depth readId writeId : Byte) (more : List Byte) :
    decode wire dir stale (packet wire wire.ids.infoResponse
        (infoResponseBytes mode width height depth readId writeId) ++ more) =
      .ok (.infoResponse dir mode width height depth readId writeId, more) := by
  have hlen : (infoResponseBytes mode width height depth readId writeId).length = infoResponseSize := rfl
  rw [decode_packet _ _ _ _ _ _ (hlen ▸ (by decide : infoResponseSize ≤ Config.maxPayload)),
    decodeMessage_infoResponse hlen, infoResponseOf_bytes]

/-- Settles O23: the packet `infoRequest` sends, and its decoding. -/
theorem infoRequestAnswersWithTheState : Obligations.InfoRequestAnswersWithTheState := by
  unfold Obligations.InfoRequestAnswersWithTheState
  intro s stale more answer
  exact ⟨_, rfl, rfl, decode_infoResponse s.params.wire .toHost stale _ _ _ _ _ _ more⟩

/-- Settles O24: the meanings of the two instructions; the packet is a header, eight payload bytes and a CRC. -/
theorem unknownIdsAndInfoResponses : Obligations.UnknownIdsAndInfoResponses := by
  unfold Obligations.UnknownIdsAndInfoResponses
  exact fun s id payload mode depth r w width height => ⟨rfl, rfl, _, rfl, rfl, rfl⟩

end Sys2Proof.Machine
end

section
/-! PROOF. RegisterInstallsOneHandler, PopAndDispatch, StepRunsTheDecodedCommand, StepRunsTheEncodedPacket and
WireCommandsFrame (spec/43_dispatcher.md R105 to R109, spec/42_message_fifo.md R101, R102): the handler table, `dispatch` as
the instruction its message's bytes decode to, and what a command changes. -/

open Sys2Proof

namespace Sys2Proof.Machine

variable {s t : State} {m : Message} {k : CommandKind} {i : Instr} {rest : List Turn} {w : Wire} {id : Byte} {p : List Byte}

/-! ### The handler table (R105, R107) -/

/-- Every id but `0xFF` has a slot in the table. -/
theorem toNat_le_254 (h : id ≠ 0xFF#8) : id.toNat ≤ 254 := by
  have hne : id.toNat ≠ 255 := fun he => h (BitVec.eq_of_toNat_eq he)
  omega

theorem exec_register (h : id ≠ 0xFF#8) :
    exec (.register id k) s = .next { s with handlers := tablePut id.toNat k s.handlers } :=
  congrArg Host.Outcome.next (if_neg h)

/-- The id registered has its new handler. -/
theorem handlerOf_put_same (h : id ≠ 0xFF#8) :
    handlerOf { s with handlers := tablePut id.toNat k s.handlers } id = some k := by
  rw [handlerOf, if_pos (toNat_le_254 h), tableGet_put_same]

/-- Every other id has the handler it had. -/
theorem handlerOf_put_other {j : Byte} (h : j ≠ id) :
    handlerOf { s with handlers := tablePut id.toNat k s.handlers } j = handlerOf s j := by
  simp only [handlerOf, tableGet_put_other k s.handlers (mt BitVec.eq_of_toNat_eq h)]

/-- Settles O25: the table with the id's entry written. -/
theorem registerInstallsOneHandler : Obligations.RegisterInstallsOneHandler := by
  unfold Obligations.RegisterInstallsOneHandler
  exact fun s id k => ⟨fun h => ⟨_, exec_register h, handlerOf_put_same h, fun j => handlerOf_put_other, rfl⟩, rfl⟩

/-- With the table that boot leaves, an id's handler is the command the id map gives it to (R192). -/
theorem handlerOf_boot (hl : s.params.wire.ids.legal = true) (hb : s.handlers = bootHandlers s.params.wire.ids) :
    handlerOf s id = kindOfId s.params.wire.ids id := by
  rw [handlerOf, hb, tableGet_boot hl]
  split
  · rfl
  · rename_i hid
    refine (Option.eq_none_iff_forall_ne_some.mpr fun k hk => hid (toNat_le_254 ?_)).symm
    exact idOf_of_kindOfId hk ▸ (IdMap.legal_spec hl).2.2 k

/-- Under a legal id map INFO_RESPONSE's id is no command's (R62). -/
theorem kindOfId_infoResponse (hl : w.ids.legal = true) : kindOfId w.ids w.ids.infoResponse = none :=
  Option.eq_none_iff_forall_ne_some.mpr fun k hk => (IdMap.legal_spec hl).1 k (idOf_of_kindOfId hk)

/-! ### `dispatch` (R107 to R109) -/

/-- With the lock free, `dispatch` of a message whose id has a handler steps to where the instruction that its bytes decode
to does. -/
theorem dispatch_free (hm : s.aMsg = some m) (hk : handlerOf s m.id = some k) (hl : s.lock = .free) :
    ∃ t, dispatch? s = some t ∧
      exec (instrOf k (drawnBytes m k.size s)) { s with aMsg := none, draws := s.draws + k.size } = .next t := by
  obtain ⟨t, ht⟩ := runHandler_free k (drawnBytes m k.size s)
    (s := { s with aMsg := none, draws := s.draws + k.size }) hl
  exact ⟨t, (dispatch_handler hm hk).trans ht, (exec_instrOf k _ _).trans (congrArg (stepOrWait _) ht)⟩

/-- `dispatch` of a message whose id has none logs the id. -/
theorem exec_dispatch_unknown (hm : s.aMsg = some m) (hk : handlerOf s m.id = none) :
    exec .dispatch s = .next { s with aMsg := none, log := s.log ++ [.unknownId m.id] } :=
  congrArg (stepOrWait s) (dispatch_unknown hm hk)

theorem dispatch_noMessage (hm : s.aMsg = none) : dispatch? s = none := by rw [dispatch?, hm]

theorem pop_cons {q : List Message} (hq : s.q = m :: q) : pop? s = some { s with q := q, aMsg := some m } := by
  rw [pop?, hq]

theorem pop_nil (hq : s.q = []) : pop? s = none := by rw [pop?, hq]

/-- Settles O26: each operation with something to take, and without. -/
theorem popAndDispatch : Obligations.PopAndDispatch := by
  unfold Obligations.PopAndDispatch
  intro s m rest
  refine ⟨fun hq => congrArg (stepOrWait s) (pop_cons hq), fun hq => exec_of_wait rfl (pop_nil hq),
    fun hm hl k hk => ?_, exec_dispatch_unknown, fun hm => exec_of_wait rfl (dispatch_noMessage hm)⟩
  obtain ⟨t, hd, he⟩ := dispatch_free hm hk hl
  exact ⟨t, congrArg (stepOrWait s) hd, dispatch_aMsg hd, he⟩

/-! ### A's step in a drain (R106) -/

/-- A with a popped message dispatches it. -/
theorem ctxAAction_dispatch (hp : s.aPhase = .drain) (hm : s.aMsg = some m) : ctxAAction s = .perform .dispatch := by
  simp [ctxAAction, hp, hm]

theorem step_dispatch (h : stopped s = false) (hs : s.sched = .ctxA :: rest) (hp : s.aPhase = .drain)
    (hm : s.aMsg = some m) : step s = exec .dispatch { s with sched := rest } :=
  step_of_action h hs (ctxAAction_dispatch hp hm)

/-- Settles O1: A's step is `dispatch`, which is the instruction. -/
theorem stepRunsTheDecodedCommand : Obligations.StepRunsTheDecodedCommand := by
  unfold Obligations.StepRunsTheDecodedCommand
  intro s rest m k h hs hp hm hk hl
  obtain ⟨t, hd, he⟩ := dispatch_free (s := { s with sched := rest }) hm hk hl
  calc step s = exec .dispatch { s with sched := rest } := step_dispatch h hs hp hm
    _ = .next t := congrArg (stepOrWait _) hd
    _ = _ := he.symm

/-- A message that holds a payload of the struct's length gives the handler that payload's bytes (R102, R108). -/
theorem drawnBytes_of_payload (hp : p.length = k.size) (h : ∀ n, n < p.length → m.payload[n]? = some p[n]?) :
    drawnBytes m k.size s = p := by
  refine List.ext_getElem (by simp [drawnBytes, commandBytes, hp]) fun n _ hn => ?_
  simp [drawnBytes, commandBytes, h n hn, hn]

/-- Settles O2: the instruction is that of one of the three kinds of messages; a command has its handler, and the two
others, which have none, are logged as the step logs them. -/
theorem stepRunsTheEncodedPacket : Obligations.StepRunsTheEncodedPacket := by
  unfold Obligations.StepRunsTheEncodedPacket
  intro s rest m i id payload h hs hp hm hl hlegal hboot hw hdir he hid hpay
  have hhandler : handlerOf s m.id = kindOfId s.params.wire.ids id := hid ▸ handlerOf_boot hlegal hboot
  have hunknown (hk : kindOfId s.params.wire.ids id = none) :
      step s = .next { s with sched := rest, aMsg := none, log := s.log ++ [.unknownId id] } := by
    rw [step_dispatch h hs hp hm, ← hid]
    exact exec_dispatch_unknown (s := { s with sched := rest }) hm (hhandler.trans hk)
  cases messageOf_of_encodeMessage he with
  | command k _ hlen =>
    refine ⟨k.size, ?_⟩
    rw [stepRunsTheDecodedCommand s rest m k h hs hp hm (hhandler.trans (kindOfId_idOf hlegal k)) hl,
      drawnBytes_of_payload hlen hpay]
  | infoResponse dir _ _ =>
    obtain rfl : dir = .toBlock := hdir
    exact ⟨0, hunknown (kindOfId_infoResponse hlegal)⟩
  | unknownId => exact ⟨0, hunknown (kindOfId_of_lacks (Bool.and_eq_true_iff.mp hw).1).1⟩

/-! ### The frame (R107 to R123: State written) -/

/-- An instruction with a packet changes only what the wire commands write. -/
theorem exec_packet_frame (hi : (encodeMessage w i).isSome = true) (h : exec i s = .next t) :
    ∃ log tx mode prims color r w,
      t = { s with
        log := log, tx := tx, mode := mode, prims := prims, clearColor := color, readId := r, writeId := w } := by
  obtain ⟨⟨id, p⟩, hi⟩ := Option.isSome_iff_exists.mp hi
  cases messageOf_of_encodeMessage hi with
  | command k p _ =>
    rw [exec_instrOf] at h
    rcases stepOrWait_next h with h | ⟨-, rfl⟩
    · obtain ⟨log, tx, mode, prims, color, r, w, -, ht⟩ := runHandler_frame h
      exact ⟨log, tx, mode, prims, color, r, w, ht⟩
    · exact ⟨_, _, _, _, _, _, _, rfl⟩
  | infoResponse dir p _ => cases dir <;> cases h <;> exact ⟨_, _, _, _, _, _, _, rfl⟩
  | unknownId => cases h; exact ⟨_, _, _, _, _, _, _, rfl⟩

/-- `dispatch` changes those, A's message and the count of draws. -/
theorem exec_dispatch_frame (h : exec .dispatch s = .next t) :
    ∃ msg draws log tx mode prims color r w,
      t = { s with
        aMsg := msg, draws := draws, log := log, tx := tx, mode := mode, prims := prims, clearColor := color
        readId := r, writeId := w } := by
  rcases stepOrWait_next h with h | ⟨-, rfl⟩
  · obtain ⟨m, -, ⟨k, -, hk⟩ | ⟨-, rfl⟩⟩ := dispatch_spec h
    · obtain ⟨log, tx, mode, prims, color, r, w, -, rfl⟩ := runHandler_frame hk
      exact ⟨_, _, log, tx, mode, prims, color, r, w, rfl⟩
    · exact ⟨_, _, _, _, _, _, _, _, _, rfl⟩
  · exact ⟨_, _, _, _, _, _, _, _, _, rfl⟩

/-- Settles O56: the two frames, neither of which has memory in it. -/
theorem wireCommandsFrame : Obligations.WireCommandsFrame := by
  unfold Obligations.WireCommandsFrame
  intro i s t h
  refine ⟨fun he => ?_, ?_, ?_⟩
  · obtain ⟨log, tx, mode, prims, color, r, w, rfl⟩ := exec_packet_frame he h
    rfl
  · rintro rfl
    obtain ⟨msg, draws, log, tx, mode, prims, color, r, w, rfl⟩ := exec_dispatch_frame h
    rfl
  · rintro (he | rfl) a
    · obtain ⟨log, tx, mode, prims, color, r, w, rfl⟩ := exec_packet_frame he h
      rfl
    · obtain ⟨msg, draws, log, tx, mode, prims, color, r, w, rfl⟩ := exec_dispatch_frame h
      rfl

end Sys2Proof.Machine
end

section
/-! PROOF. VertexOrderDoesNotMatter (spec/44_rasterizer.md R128): the order of the vertex sort is total, transitive and
antisymmetric, so two vertices are sorted the same whichever comes first, and so are three. -/

open Sys2Proof

namespace Sys2Proof.Machine

variable {a b c : Point}

/-! ### The order of the vertices -/

/-- By `y`, then `x` (R128). -/
theorem pointLe_iff : pointLe a b = true ↔ a.y < b.y ∨ (a.y = b.y ∧ a.x ≤ b.x) := by simp [pointLe]

theorem pointLe_total (a b : Point) : pointLe a b = true ∨ pointLe b a = true := by
  rw [pointLe_iff, pointLe_iff]
  omega

theorem pointLe_trans (hab : pointLe a b = true) (hbc : pointLe b c = true) : pointLe a c = true := by
  rw [pointLe_iff] at *
  omega

theorem pointLe_antisymm (hab : pointLe a b = true) (hba : pointLe b a = true) : a = b := by
  cases a
  cases b
  simp only [pointLe_iff, Point.mk.injEq] at *
  omega

/-! ### The sort -/

/-- Two vertices in order are left as they are. -/
theorem sortTwo_of_le (h : pointLe a b = true) : sortTwo a b = (a, b) := if_pos h

/-- Two vertices against the order are exchanged; equal ones are the same either way. -/
theorem sortTwo_of_ge (h : pointLe b a = true) : sortTwo a b = (b, a) := by
  by_cases hab : pointLe a b = true
  · obtain rfl := pointLe_antisymm hab h
    exact sortTwo_of_le h
  · exact if_neg hab

theorem sortTwo_comm (a b : Point) : sortTwo a b = sortTwo b a := by
  rcases pointLe_total a b with h | h
  · rw [sortTwo_of_le h, sortTwo_of_ge h]
  · rw [sortTwo_of_ge h, sortTwo_of_le h]

/-- The sort begins with the first two vertices, in either order. -/
theorem sortThree_swap_left (a b c : Point) : sortThree a b c = sortThree b a c := by
  simp only [sortThree, sortTwo_comm a b]

/-- Wherever the first vertex stands among two others in order, the sort finds its place. -/
theorem sortThree_swap_right_of_le (h : pointLe b c = true) : sortThree a b c = sortThree a c b := by
  rcases pointLe_total a b with hab | hba
  · have hac := pointLe_trans hab h
    simp only [sortThree, sortTwo_of_le hab, sortTwo_of_le h, sortTwo_of_le hac, sortTwo_of_ge h]
  · rcases pointLe_total a c with hac | hca
    · simp only [sortThree, sortTwo_of_ge hba, sortTwo_of_le hac, sortTwo_of_le hba, sortTwo_of_ge h]
    · simp only [sortThree, sortTwo_of_ge hba, sortTwo_of_ge hca, sortTwo_of_le h, sortTwo_of_ge h]

theorem sortThree_swap_right (a b c : Point) : sortThree a b c = sortThree a c b := by
  rcases pointLe_total b c with h | h
  · exact sortThree_swap_right_of_le h
  · exact (sortThree_swap_right_of_le h).symm

/-- A triangle is prepared from its sorted vertices alone. -/
theorem prepare_congr {v0 v1 v2 u0 u1 u2 : Point} (h : sortThree v0 v1 v2 = sortThree u0 u1 u2) (color : Pixel) :
    prepare v0 v1 v2 color = prepare u0 u1 u2 color := by rw [prepare, prepare, h]

/-- Settles O30: by the two exchanges of the sort. -/
theorem vertexOrderDoesNotMatter : Obligations.VertexOrderDoesNotMatter := by
  unfold Obligations.VertexOrderDoesNotMatter
  intro s a b c color
  refine ⟨congrArg Host.Outcome.next ?_, congrArg Host.Outcome.next ?_⟩
  · rw [State.addTriangle, State.addTriangle, prepare_congr (sortThree_swap_left a b c)]
  · rw [State.addTriangle, State.addTriangle, prepare_congr (sortThree_swap_right a b c)]

end Sys2Proof.Machine
end

section
/-! PROOF. LegalModesNeverLeaveTheMemory (spec/43_dispatcher.md R112, spec/20_memory.md R48): which steps touch the mode or
the fault at all; MODE_CHANGE enters only modes that fit, every other step keeps the screen, and in a mode that fits no line
lies past the end of memory. -/

open Sys2Proof Sys2Proof.Safety

namespace Sys2Proof.Machine

variable {s t : State} {p : Params} {m m' : Mode} {g : Screen} {k : CommandKind} {bytes : List Byte}

/-! ### Modes that fit (R112) -/

/-- What `modeLegal` asks of a mode under the parameters: a size, and planes that fit. -/
def Mode.Fits (p : Params) (m : Mode) : Prop :=
  1 ≤ m.width.toNat ∧ 1 ≤ m.height.toNat ∧ ∀ g, m.screen? = some g → planesFit p g = true

theorem modeLegal_iff : modeLegal s ↔ s.mode.Fits s.params := Iff.rfl

/-- Two modes with the same screen and size. -/
structure Mode.SameScreen (m m' : Mode) : Prop where
  screen : m'.screen? = m.screen?
  width : m'.width = m.width
  height : m'.height = m.height

theorem Mode.SameScreen.refl (m : Mode) : m.SameScreen m := ⟨rfl, rfl, rfl⟩

theorem Mode.SameScreen.fits (h : m.SameScreen m') (hm : m.Fits p) : m'.Fits p := by
  rwa [Mode.Fits, h.screen, h.width, h.height]

/-- A new scene leaves the screen as it is (R26). -/
theorem Mode.sameScreen_scene {sc sc' : Scene} (h : m = .graphic3D g sc) : m.SameScreen (.graphic3D g sc') := by
  subst h
  exact ⟨rfl, rfl, rfl⟩

theorem one_le_toNat {v : Word16} (h : v ≠ 0#16) : 1 ≤ v.toNat :=
  Nat.one_le_iff_ne_zero.mpr fun h0 => h (BitVec.eq_of_toNat_eq h0)

/-- A mode that passes MODE_CHANGE's test fits (R112). -/
theorem newMode_fits {mode depth palette font : Byte} {w h : Word16}
    (hn : newMode? p mode w h depth palette font = some m) : m.Fits p := by
  obtain ⟨hw, hh, ⟨-, rfl⟩ | ⟨g, hg, hm⟩⟩ := newMode_spec hn
  · exact ⟨one_le_toNat hw, one_le_toNat hh, nofun⟩
  · obtain ⟨rfl, rfl, -, hfit⟩ := legalScreen_spec hg
    rcases hm with ⟨-, rfl⟩ | ⟨-, rfl⟩
    all_goals exact ⟨one_le_toNat hw, one_le_toNat hh, fun _ hs => Option.some.inj hs ▸ hfit⟩

/-! ### The mode a command leaves -/

theorem beginPrimitives_sameScreen (s : State) : s.mode.SameScreen (beginPrimitives s).mode := by
  rw [beginPrimitives]
  split
  · exact Mode.sameScreen_scene ‹_›
  all_goals exact .refl _

theorem endPrimitives_sameScreen (s : State) : s.mode.SameScreen (endPrimitives s).mode := by
  rw [endPrimitives]
  split
  · split
    · exact Mode.sameScreen_scene ‹_›
    · exact .refl _
  all_goals exact .refl _

theorem writeVertex_sameScreen (x y z : F32) (color : Pixel) (s : State) :
    s.mode.SameScreen (writeVertex x y z color s).mode := by
  rw [writeVertex]
  split
  · split
    · exact Mode.sameScreen_scene ‹_›
    · exact .refl _
  all_goals exact .refl _

theorem setPerspective_sameScreen (viewAngle aspect zNear zFar : F32) (s : State) :
    s.mode.SameScreen (setPerspective viewAngle aspect zNear zFar s).mode := by
  rw [setPerspective]
  split
  · exact Mode.sameScreen_scene ‹_›
  all_goals exact .refl _

@[simp] theorem setPixel_mode (x y : Word16) (color : Pixel) (s : State) : (setPixel x y color s).mode = s.mode := by
  rw [setPixel]
  split <;> rfl

@[simp] theorem drawLine_mode (x0 y0 x1 y1 : Word16) (color : Pixel) (s : State) :
    (drawLine x0 y0 x1 y1 color s).mode = s.mode := by
  rw [drawLine]
  split <;> rfl

@[simp] theorem drawTriangle_mode (x0 y0 x1 y1 x2 y2 : Word16) (color : Pixel) (s : State) :
    (drawTriangle x0 y0 x1 y1 x2 y2 color s).mode = s.mode := by
  rw [drawTriangle]
  split <;> rfl

@[simp] theorem clearScreen_mode (color : Pixel) (s : State) : (clearScreen color s).mode = s.mode := by
  rw [clearScreen]
  split <;> rfl

/-- A handler keeps the screen, or enters a mode that fits (R112 to R122). -/
theorem runHandler_mode (h : runHandler k bytes s = some t) : s.mode.SameScreen t.mode ∨ t.mode.Fits s.params := by
  cases k with
  | modeChange =>
    rcases modeChange_spec h with rfl | ⟨m, hm, -, rfl⟩
    · exact .inl (.refl _)
    · exact .inr (newMode_fits hm)
  | swapBuffer =>
    obtain ⟨u, hu, rfl⟩ := Option.map_eq_some_iff.mp h
    obtain ⟨-, rfl⟩ := acquireLock_some hu
    rw [releaseLock_held rfl]
    exact .inl (.refl _)
  | setPixel => cases h; rw [setPixel_mode]; exact .inl (.refl _)
  | drawLine => cases h; rw [drawLine_mode]; exact .inl (.refl _)
  | drawTriangle => cases h; rw [drawTriangle_mode]; exact .inl (.refl _)
  | clearScreen => cases h; rw [clearScreen_mode]; exact .inl (.refl _)
  | beginPrimitives => cases h; exact .inl (beginPrimitives_sameScreen s)
  | endPrimitives => cases h; exact .inl (endPrimitives_sameScreen s)
  | writeVertex => cases h; exact .inl (writeVertex_sameScreen _ _ _ _ s)
  | setPerspective => cases h; exact .inl (setPerspective_sameScreen _ _ _ _ s)
  | infoRequest => cases h; exact .inl (.refl _)

/-! ### The steps -/

/-- The mode is legal and no ExtMemRange is recorded. -/
def LegalAndInside (s : State) : Prop := modeLegal s ∧ noExtMemRange s

theorem LegalAndInside.congr (hs : LegalAndInside s) (hp : t.params = s.params) (hm : s.mode.SameScreen t.mode)
    (hf : ∀ x, t.fault = some (.extMemRange x) → s.fault = some (.extMemRange x)) : LegalAndInside t := by
  obtain ⟨hlegal, hin⟩ := hs
  exact ⟨modeLegal_iff.mpr (hp ▸ hm.fits (modeLegal_iff.mp hlegal)), fun x hx => hin x (hf x hx)⟩

theorem LegalAndInside.planesFit (hs : LegalAndInside s) (hg : s.mode.screen? = some g) :
    planesFit s.params g = true := by
  obtain ⟨⟨-, -, hfit⟩, -⟩ := hs
  exact hfit g hg

/-- Neither the parameters, the mode nor the fault differ between the two states. -/
structure SameModeAndFault (s t : State) : Prop where
  params : t.params = s.params
  mode : t.mode = s.mode
  fault : t.fault = s.fault

theorem LegalAndInside.of_same (hs : LegalAndInside s) (h : SameModeAndFault s t) : LegalAndInside t :=
  hs.congr h.params (h.mode ▸ .refl _) fun _ hx => h.fault ▸ hx

/-- Only `dispatch`, a render pass and a scanline read can touch the mode or the fault. -/
theorem StepCase.sameModeAndFault_or (h : StepCase s t) :
    SameModeAndFault s t ∨ dispatch? s = some t ∨ render? s = some t ∨ scanlineRead? s = some t := by
  cases h with
  | dispatch _ h => exact .inr (.inl h)
  | render h => exact .inr (.inr (.inl h))
  | scanlineRead h => exact .inr (.inr (.inr h))
  | deliver h => obtain ⟨rx, tok, c0, c1, slot, crc, n, rfl⟩ := deliver_frame h; exact .inl ⟨rfl, rfl, rfl⟩
  | complete h =>
    obtain ⟨phase, armed, n, crc, expected, slot, q, draws, rfl⟩ := transferComplete_frame h
    exact .inl ⟨rfl, rfl, rfl⟩
  | pop _ h => obtain ⟨m, rest, -, rfl⟩ := pop_spec h; exact .inl ⟨rfl, rfl, rfl⟩
  | renderTick h => obtain ⟨-, -, rfl⟩ := renderTick_spec h; exact .inl ⟨rfl, rfl, rfl⟩
  | resume h => obtain ⟨-, -, rfl⟩ := resumeB_spec h; exact .inl ⟨rfl, rfl, rfl⟩
  | getSlot h => obtain ⟨-, req, phase, -, rfl⟩ := getSlot_spec h; exact .inl ⟨rfl, rfl, rfl⟩
  | submit h => obtain ⟨slot, -, -, rfl⟩ := submit_spec h; exact .inl ⟨rfl, rfl, rfl⟩
  | wait h | framerInit _ h | drained _ _ _ h | hostSend _ h | hostTake h | hostLose _ h =>
    subst h; exact .inl ⟨rfl, rfl, rfl⟩

theorem runHandler_legalAndInside (hs : LegalAndInside s) (h : runHandler k bytes s = some t) : LegalAndInside t := by
  have hmode := runHandler_mode h
  obtain ⟨log, tx, mode, prims, color, r, w, -, rfl⟩ := runHandler_frame h
  rcases hmode with hm | hm
  · exact hs.congr rfl hm fun _ => id
  · exact ⟨hm, hs.2⟩

theorem dispatch_legalAndInside (hs : LegalAndInside s) (h : dispatch? s = some t) : LegalAndInside t := by
  obtain ⟨m, -, ⟨k, -, hk⟩ | ⟨-, rfl⟩⟩ := dispatch_spec h
  · exact runHandler_legalAndInside (s := { s with aMsg := none, draws := s.draws + k.size })
      (hs.of_same ⟨rfl, rfl, rfl⟩) hk
  · exact hs.of_same ⟨rfl, rfl, rfl⟩

/-- Either plane of a screen that fits ends inside memory (R48). -/
theorem plane_inside (h : planesFit p g = true) (plane : PlaneId) :
    planeBase p plane + g.height.toNat * g.stride ≤ p.extMemSize := by
  obtain ⟨hlo, hhi⟩ := planesFit_iff.mp h
  cases plane with
  | zero => simp only [planeBase]; omega
  | one => exact hhi

/-- So does each of its lines. -/
theorem line_inside (h : planesFit p g = true) (plane : PlaneId) {y : Nat} (hy : y < g.height.toNat) :
    lineAddr p g plane y + g.stride ≤ p.extMemSize :=
  (line_in_plane hy).2.trans (plane_inside h plane)

/-- A pass over a mode that fits ends inside memory whatever else it raises (R132). -/
theorem render_legalAndInside (hs : LegalAndInside s) (h : render? s = some t) : LegalAndInside t := by
  obtain ⟨-, ⟨-, rfl⟩ | ⟨g, lb, ext, bus, mode, hg, -, hm, hw, hh, ⟨-, rfl⟩ | ⟨prims, phase, f, hf, rfl⟩⟩⟩ := render_spec h
  · exact hs.of_same ⟨rfl, rfl, rfl⟩
  · exact hs.congr rfl ⟨hm, hw, hh⟩ fun _ => id
  · refine hs.congr rfl ⟨hm, hw, hh⟩ fun x hx => ?_
    exact absurd (plane_inside (hs.planesFit hg) s.writeId) (Nat.not_le.mpr (hf x (Option.some.inj hx)))

/-- A line B reads in a mode that fits lies inside memory (R161). -/
theorem scanlineRead_legalAndInside (hs : LegalAndInside s) (h : scanlineRead? s = some t) : LegalAndInside t := by
  obtain ⟨-, -, ⟨-, rfl⟩ | ⟨g, hg, ⟨px, bus, draws, -, -, rfl⟩ | ⟨x, y, hy, hpast, rfl⟩⟩⟩ := scanlineRead_spec h
  · exact hs.of_same ⟨rfl, rfl, rfl⟩
  · exact hs.of_same ⟨rfl, rfl, rfl⟩
  · exact absurd (line_inside (hs.planesFit hg) s.readId hy) (Nat.not_le.mpr hpast)

theorem StepCase.keeps_legalAndInside (h : StepCase s t) (hs : LegalAndInside s) : LegalAndInside t := by
  rcases h.sameModeAndFault_or with h | h | h | h
  · exact hs.of_same h
  · exact dispatch_legalAndInside hs h
  · exact render_legalAndInside hs h
  · exact scanlineRead_legalAndInside hs h

/-- Settles O53: by the cases of the step, in the state with the turn used up, which has the same mode and fault. -/
theorem legalModesNeverLeaveTheMemory : Obligations.LegalModesNeverLeaveTheMemory := by
  unfold Obligations.LegalModesNeverLeaveTheMemory
  intro s t hlegal hin h
  obtain ⟨-, sched, draws, hc⟩ := step_cases h
  exact hc.keeps_legalAndInside ⟨hlegal, hin⟩

end Sys2Proof.Machine
end

section
/-! PROOF. TextModeIsRefused and RenderFrame (spec/44_rasterizer.md R132, R136, spec/45_pipeline_3d.md R138): the two
refusals in Text mode, and what the cases of a pass and of flattening leave unchanged. -/

open Sys2Proof

namespace Sys2Proof.Machine

variable {s t : State}

/-! ### Text mode (R136) -/

theorem render_text {l : Nat} (hm : s.mode.screen? = none) (hl : s.lock = .free) (hp : s.aPhase = .render l) :
    render? s = some { s with lock := .held .a, refused := some .textMode } := by
  simp only [render?, hp, acquireLock_free hl, hm]
  rfl

theorem scanlineRead_text (hm : s.mode.screen? = none) (hl : s.lock = .free) (hp : s.bPhase = .read) :
    scanlineRead? s = some { s with lock := .held .b, refused := some .textMode } := by
  simp only [scanlineRead?, hp, acquireLock_free hl, hm]
  rfl

/-- Settles O39: both operations take the lock and are then refused. -/
theorem textModeIsRefused : Obligations.TextModeIsRefused := by
  unfold Obligations.TextModeIsRefused
  intro s l hm
  exact ⟨fun hl hp => congrArg (stepOrWait s) (render_text hm hl hp),
    fun hl hp => congrArg (stepOrWait s) (scanlineRead_text hm hl hp)⟩

/-! ### The frame (R132, R138: State written) -/

/-- Bytes outside the range written read as before. -/
theorem WrittenWithin.extByte_outside {size lo n a : Nat} (h : WrittenWithin size lo n s.ext t.ext)
    (ha : a < lo ∨ lo + n ≤ a) : extByte t a = extByte s a := by rw [extByte, extByte, h.1 a ha]

/-- What a pass leaves unchanged, whether it ends, is refused or raises. -/
theorem render_frame (h : render? s = some t) :
    t = { s with
      lb := t.lb, prims := t.prims, ext := t.ext, bus := t.bus, lock := t.lock, mode := t.mode
      tickDone := t.tickDone, aPhase := t.aPhase, fault := t.fault, refused := t.refused } ∧
    t.mode.screen? = s.mode.screen? ∧ (s.mode.screen? = none → t.ext = s.ext) ∧
    ∀ g, s.mode.screen? = some g →
      WrittenWithin s.params.extMemSize (planeBase s.params s.writeId) (g.height.toNat * g.stride) s.ext t.ext := by
  obtain ⟨-, ⟨hm, rfl⟩ | ⟨g, lb, ext, bus, mode, hg, hw, hm, -, -, hcase⟩⟩ := render_spec h
  · exact ⟨rfl, rfl, fun _ => rfl, fun g hg => nomatch hm.symm.trans hg⟩
  · have hplane : ∀ g', s.mode.screen? = some g' →
        WrittenWithin s.params.extMemSize (planeBase s.params s.writeId) (g'.height.toNat * g'.stride) s.ext ext :=
      fun g' hg' => Option.some.inj (hg.symm.trans hg') ▸ hw
    rcases hcase with ⟨-, rfl⟩ | ⟨prims, phase, f, -, rfl⟩
    all_goals exact ⟨rfl, hm, fun hn => (nomatch hn.symm.trans hg), hplane⟩

/-- What flattening leaves unchanged, whether it ends or raises. -/
theorem flatten_frame (s : State) :
    let t := flowEnd (flattenFlow s)
    t = { s with prims := t.prims, mode := t.mode, fault := t.fault } := by
  have hf := flattenFlow_spec s
  cases hr : flattenFlow s with
  | ok t => rw [hr] at hf; obtain ⟨prims, mode, -, -, -, rfl⟩ := hf; rfl
  | error t => rw [hr] at hf; obtain ⟨prims, v, rfl⟩ := hf; rfl

/-- Settles O43: a pass that waits changes nothing; else by the two frames. -/
theorem renderFrame : Obligations.RenderFrame := by
  unfold Obligations.RenderFrame
  intro s t
  refine ⟨fun h => ?_, fun h => ?_⟩
  · rcases stepOrWait_next h with h | ⟨-, rfl⟩
    · obtain ⟨hframe, hscreen, htext, hplane⟩ := render_frame h
      exact ⟨hframe, hscreen, htext, fun g hg a => (hplane g hg).extByte_outside⟩
    · exact ⟨rfl, rfl, fun _ => rfl, fun _ _ _ _ => rfl⟩
  · obtain rfl := Host.Outcome.next.inj h
    have hframe := flatten_frame s
    exact ⟨hframe, fun a => by rw [hframe]; rfl⟩

end Sys2Proof.Machine
end

section
/-! PROOF. AddTriangleQueuesPreparedTriangle (spec/44_rasterizer.md R127, R128): the vertex sort gives the one sorted order
of its three vertices. -/

open Sys2Proof

namespace Sys2Proof.Machine

variable {a b c v0 v1 v2 : Point}

/-- Three vertices in order are left as they are. -/
theorem sortThree_of_le (hab : pointLe a b = true) (hbc : pointLe b c = true) : sortThree a b c = (a, b, c) := by
  simp only [sortThree, sortTwo_of_le hab, sortTwo_of_le hbc]

/-- The sort does not see in which order the vertices come: exchanges of neighbours lead from each order to every other. -/
theorem sortThree_of_perm (h : [v0, v1, v2].Perm [a, b, c]) : sortThree v0 v1 v2 = sortThree a b c := by
  have horders : v0 = a ∧ v1 = b ∧ v2 = c ∨ v0 = b ∧ v1 = a ∧ v2 = c ∨ v0 = c ∧ v1 = b ∧ v2 = a ∨
      v0 = b ∧ v1 = c ∧ v2 = a ∨ v0 = c ∧ v1 = a ∧ v2 = b ∨ v0 = a ∧ v1 = c ∧ v2 = b := by
    simpa [List.permutations] using List.mem_permutations.mpr h
  rcases horders with ⟨rfl, rfl, rfl⟩ | ⟨rfl, rfl, rfl⟩ | ⟨rfl, rfl, rfl⟩ | ⟨rfl, rfl, rfl⟩ | ⟨rfl, rfl, rfl⟩ |
    ⟨rfl, rfl, rfl⟩
  · rfl
  · exact sortThree_swap_left _ _ _
  · rw [sortThree_swap_left, sortThree_swap_right, sortThree_swap_left]
  · rw [sortThree_swap_right, sortThree_swap_left]
  · rw [sortThree_swap_left, sortThree_swap_right]
  · exact sortThree_swap_right _ _ _

/-- The slope of an edge, its raw Δx where it has no height (R127). -/
theorem slope_eq (p r : Point) :
    slope p r = if r.y = p.y then f32OfInt (r.x - p.x) else f32Div (f32OfInt (r.x - p.x)) (f32OfInt (r.y - p.y)) :=
  ite_not ..

/-- The prepared triangle of vertices in order, field by field (R128). -/
theorem prepareSorted_eq (a b c : Point) (color : Pixel) :
    prepareSorted a b c color =
      { dx1 := slope a b, dx2 := slope a c, dx3 := slope b c, sx := f32OfInt a.x
        ex := if a.y = c.y then f32OfInt c.x
              else if a.y = b.y then f32Add (f32OfInt a.x) (slope a b) else f32OfInt a.x
        minY := u16 a.y, midY := u16 b.y, maxY := u16 c.y
        longLeft := if a.y = c.y then true else if a.y = b.y then true else f32Lt (slope a c) (slope a b)
        color := color } := by
  rw [prepareSorted]
  by_cases hac : a.y = c.y
  · simp only [if_pos hac]
  · by_cases hab : a.y = b.y
    · simp only [if_neg hac, if_pos hab]
    · simp only [if_neg hac, if_neg hab]

/-- A triangle is prepared from its vertices in order, whatever order they come in (R128). -/
theorem prepare_of_perm (h : [v0, v1, v2].Perm [a, b, c]) (hab : pointLe a b = true) (hbc : pointLe b c = true)
    (color : Pixel) : prepare v0 v1 v2 color = prepareSorted a b c color := by
  rw [prepare, sortThree_of_perm h, sortThree_of_le hab hbc]

/-- Settles O29: the one triangle queued is that of the sorted vertices. -/
theorem addTriangleQueuesPreparedTriangle : Obligations.AddTriangleQueuesPreparedTriangle := by
  unfold Obligations.AddTriangleQueuesPreparedTriangle
  intro s v0 v1 v2 a b c color hperm hab hbc slopeOf
  have hslope : slopeOf = slope := funext₂ fun p r => (slope_eq p r).symm
  refine congrArg Host.Outcome.next ?_
  rw [State.addTriangle, prepare_of_perm hperm.symm (pointLe_iff.mpr hab) (pointLe_iff.mpr hbc), prepareSorted_eq, hslope]
  rfl

end Sys2Proof.Machine
end

section
/-! PROOF. LineJoinsItsEndPoints (spec/44_rasterizer.md R131): the line is the points of a sequence of steps, cut at its
second end point. Counted in moves from the first, the error term is the distance from the straight line, and stays within
half a pixel along the shorter axis while the longer one moves at every step. -/

open Sys2Proof

namespace Sys2Proof.Machine

/-! ### The steps of a line (R131) -/

/-- Where a line stands: its point and the error term. -/
structure LineAt where
  pt : Point
  err : Int

/-- One step of the rule: each coordinate moves, and its error is taken in, where the error term says so. -/
def LineAt.next (dx dy stepx stepy : Int) (l : LineAt) : LineAt :=
  { pt := ⟨l.pt.x + (if dy ≤ 2 * l.err then stepx else 0), l.pt.y + (if 2 * l.err ≤ dx then stepy else 0)⟩
    err := l.err + (if dy ≤ 2 * l.err then dy else 0) + (if 2 * l.err ≤ dx then dx else 0) }

/-- A line that has not ended draws its point and takes the step. -/
theorem bresenhamFrom_succ (x1 y1 dx dy stepx stepy : Int) (fuel : Nat) (l : LineAt) (h : l.pt ≠ ⟨x1, y1⟩) :
    bresenhamFrom x1 y1 dx dy stepx stepy (fuel + 1) l.pt.x l.pt.y l.err =
      l.pt :: bresenhamFrom x1 y1 dx dy stepx stepy fuel (l.next dx dy stepx stepy).pt.x
        (l.next dx dy stepx stepy).pt.y (l.next dx dy stepx stepy).err := by
  have hne : ¬(l.pt.x = x1 ∧ l.pt.y = y1) := fun ⟨hx, hy⟩ => h (by rw [← hx, ← hy])
  simp only [bresenhamFrom, if_neg hne, LineAt.next]
  by_cases hx : dy ≤ 2 * l.err <;> by_cases hy : 2 * l.err ≤ dx <;> simp only [hx, hy, if_true, if_false, Int.add_zero]

/-- A line whose `m`-th step is the first to reach its end point is the points of its first `m` steps. -/
theorem bresenhamFrom_eq_map (x1 y1 dx dy stepx stepy : Int) {fuel m : Nat} {l : LineAt} (hm : m < fuel)
    (hbefore : ∀ n, n < m → ((LineAt.next dx dy stepx stepy)^[n] l).pt ≠ ⟨x1, y1⟩)
    (hend : ((LineAt.next dx dy stepx stepy)^[m] l).pt = ⟨x1, y1⟩) :
    bresenhamFrom x1 y1 dx dy stepx stepy fuel l.pt.x l.pt.y l.err =
      (List.range (m + 1)).map fun n => ((LineAt.next dx dy stepx stepy)^[n] l).pt := by
  induction m generalizing fuel l with
  | zero =>
    obtain ⟨fuel, rfl⟩ : ∃ k, fuel = k + 1 := ⟨fuel - 1, by omega⟩
    rw [Function.iterate_zero, id] at hend
    simp [bresenhamFrom, hend]
  | succ m ih =>
    obtain ⟨fuel, rfl⟩ : ∃ k, fuel = k + 1 := ⟨fuel - 1, by omega⟩
    have hfirst : l.pt ≠ ⟨x1, y1⟩ := hbefore 0 (Nat.succ_pos m)
    rw [bresenhamFrom_succ _ _ _ _ _ _ _ _ hfirst,
      ih (Nat.lt_of_succ_lt_succ hm) (fun n hn => hbefore (n + 1) (Nat.succ_lt_succ hn)) hend,
      List.range_succ_eq_map (n := m + 1), List.map_cons, List.map_map]
    rfl

/-! ### The invariant -/

/-- A line from `(x0, y0)` over the distances `d` and `e`, `n` steps on: `i` of them moved `x` and `j` moved `y`. The error
term says how far `i*e` and `j*d` are apart, which is at most half the longer distance; and a coordinate whose distance is
the longer one has moved at every step. -/
structure LineInv (x0 y0 stepx stepy d e : Int) (n : Nat) (l : LineAt) (i j : Int) : Prop where
  x : l.pt.x = x0 + i * stepx
  y : l.pt.y = y0 + j * stepy
  err : l.err = d - e - (i * e - j * d)
  lower : -max d e ≤ 2 * (i * e - j * d)
  upper : 2 * (i * e - j * d) ≤ max d e
  alongX : e ≤ d → i = n
  alongY : d ≤ e → j = n

theorem LineInv.next {x0 y0 stepx stepy d e : Int} {n : Nat} {l : LineAt} {i j : Int} (hd : 0 ≤ d) (he : 0 ≤ e)
    (h : LineInv x0 y0 stepx stepy d e n l i j) :
    ∃ i' j', LineInv x0 y0 stepx stepy d e (n + 1) (l.next d (-e) stepx stepy) i' j' := by
  obtain ⟨hx, hy, herr, hlo, hhi, hax, hay⟩ := h
  refine ⟨i + (if -e ≤ 2 * l.err then 1 else 0), j + (if 2 * l.err ≤ d then 1 else 0), ?_⟩
  by_cases hmx : -e ≤ 2 * l.err <;> by_cases hmy : 2 * l.err ≤ d
  all_goals
    constructor
    all_goals
      simp only [LineAt.next, hmx, hmy, if_true, if_false, Int.add_mul, Int.one_mul, Int.zero_mul, Nat.cast_add,
        Nat.cast_one]
      omega

/-! ### The line between two points -/

/-- The direction a coordinate moves in (R131). -/
def lineDir (p q : Int) : Int := if p < q then 1 else -1

/-- In its direction a coordinate comes from one end to the other. -/
theorem natAbs_mul_lineDir (p q : Int) : ((q - p).natAbs : Int) * lineDir p q = q - p := by
  rw [lineDir]
  split <;> omega

/-- It is at the other end only after as many moves as the distance has. -/
theorem eq_natAbs_of_add_mul_lineDir {p q : Int} {n : Nat} (h : p + n * lineDir p q = q) : n = (q - p).natAbs := by
  rw [lineDir] at h
  split at h <;> omega

theorem natAbs_mul_mul_lineDir (a p q r t : Int) : (a * lineDir p q * lineDir r t).natAbs = a.natAbs := by
  simp only [lineDir]
  split <;> split <;> simp

section Line
variable (x0 y0 x1 y1 : Int)

/-- Where the line from `(x0, y0)` to `(x1, y1)` stands after `n` steps. -/
def lineAfter (n : Nat) : LineAt :=
  (LineAt.next (x1 - x0).natAbs (-((y1 - y0).natAbs : Int)) (lineDir x0 x1) (lineDir y0 y1))^[n]
    ⟨⟨x0, y0⟩, (x1 - x0).natAbs + -((y1 - y0).natAbs : Int)⟩

theorem lineAfter_succ (n : Nat) :
    lineAfter x0 y0 x1 y1 (n + 1) =
      (lineAfter x0 y0 x1 y1 n).next (x1 - x0).natAbs (-((y1 - y0).natAbs : Int)) (lineDir x0 x1) (lineDir y0 y1) :=
  Function.iterate_succ_apply' ..

theorem lineAfter_inv (n : Nat) :
    ∃ i j, LineInv x0 y0 (lineDir x0 x1) (lineDir y0 y1) (x1 - x0).natAbs (y1 - y0).natAbs n
      (lineAfter x0 y0 x1 y1 n) i j := by
  induction n with
  | zero => exact ⟨0, 0, by constructor <;> simp [lineAfter]; all_goals omega⟩
  | succ n ih =>
    obtain ⟨i, j, h⟩ := ih
    rw [lineAfter_succ]
    exact h.next (Int.natCast_nonneg _) (Int.natCast_nonneg _)

/-- A whole multiple of the longer distance within half of it is none. -/
theorem eq_zero_of_within_half {d k : Int} (hd : 0 < d) (hlo : -d ≤ 2 * (k * d)) (hhi : 2 * (k * d) ≤ d) : k = 0 := by
  nlinarith

/-- Before the longer distance is covered the line has not ended. -/
theorem lineAfter_before {n : Nat} (h : n < max (x1 - x0).natAbs (y1 - y0).natAbs) :
    (lineAfter x0 y0 x1 y1 n).pt ≠ ⟨x1, y1⟩ := by
  obtain ⟨i, j, hinv⟩ := lineAfter_inv x0 y0 x1 y1 n
  intro hend
  have hx := hinv.x
  have hy := hinv.y
  rw [hend] at hx hy
  rcases Nat.le_total (y1 - y0).natAbs (x1 - x0).natAbs with hle | hle
  · rw [hinv.alongX (by omega)] at hx
    have := eq_natAbs_of_add_mul_lineDir hx.symm
    omega
  · rw [hinv.alongY (by omega)] at hy
    have := eq_natAbs_of_add_mul_lineDir hy.symm
    omega

/-- Two counts of moves that cover the longer distance `d` and are off the straight line by at most half a pixel cover the
shorter distance `e` as well. -/
theorem moves_of_longer {d e i j : Int} (he : 0 ≤ e) (hle : e ≤ d) (hi : i = d) (hzero : d = 0 → j = 0)
    (hlo : -d ≤ 2 * (i * e - j * d)) (hhi : 2 * (i * e - j * d) ≤ d) : j = e := by
  have hoff : i * e - j * d = (e - j) * d := by rw [hi]; ring
  rw [hoff] at hlo hhi
  by_cases hd : d = 0
  · have := hzero hd
    omega
  · have := eq_zero_of_within_half (by omega) hlo hhi
    omega

/-- Once it is covered the line is at its second end point. -/
theorem lineAfter_end :
    (lineAfter x0 y0 x1 y1 (max (x1 - x0).natAbs (y1 - y0).natAbs)).pt = ⟨x1, y1⟩ := by
  obtain ⟨i, j, hx, hy, -, hlo, hhi, hax, hay⟩ := lineAfter_inv x0 y0 x1 y1 (max (x1 - x0).natAbs (y1 - y0).natAbs)
  have hmoves : i = (x1 - x0).natAbs ∧ j = (y1 - y0).natAbs := by
    rcases Nat.le_total (y1 - y0).natAbs (x1 - x0).natAbs with hle | hle
    · have hi : i = (x1 - x0).natAbs := by omega
      exact ⟨hi, moves_of_longer (Int.natCast_nonneg _) (by omega) hi (by omega) (by omega) (by omega)⟩
    · have hj : j = (y1 - y0).natAbs := by omega
      exact ⟨moves_of_longer (Int.natCast_nonneg _) (by omega) hj (by omega) (by omega) (by omega), hj⟩
  rw [hmoves.1, natAbs_mul_lineDir] at hx
  rw [hmoves.2, natAbs_mul_lineDir] at hy
  calc (lineAfter x0 y0 x1 y1 (max (x1 - x0).natAbs (y1 - y0).natAbs)).pt
      = ⟨x0 + (x1 - x0), y0 + (y1 - y0)⟩ := by rw [← hx, ← hy]
    _ = ⟨x1, y1⟩ := by rw [add_sub_cancel, add_sub_cancel]

/-- The line is the points of its steps, up to the one that covers the longer distance (R131). -/
theorem bresenham_eq_map :
    bresenham x0 y0 x1 y1 =
      (List.range (max (x1 - x0).natAbs (y1 - y0).natAbs + 1)).map fun n => (lineAfter x0 y0 x1 y1 n).pt :=
  bresenhamFrom_eq_map _ _ _ _ _ _ (Nat.lt_succ_self _) (fun _ => lineAfter_before x0 y0 x1 y1)
    (lineAfter_end x0 y0 x1 y1)

theorem bresenham_getElem? {n : Nat} {p : Point} (h : (bresenham x0 y0 x1 y1)[n]? = some p) :
    n ≤ max (x1 - x0).natAbs (y1 - y0).natAbs ∧ p = (lineAfter x0 y0 x1 y1 n).pt := by
  rw [bresenham_eq_map, List.getElem?_map, Option.map_eq_some_iff] at h
  obtain ⟨k, hk, rfl⟩ := h
  obtain ⟨hlt, rfl⟩ := List.getElem?_eq_some_iff.mp hk
  rw [List.length_range] at hlt
  rw [List.getElem_range]
  exact ⟨by omega, rfl⟩

/-- No step takes the line further than half a pixel, along the shorter axis, from the straight line. -/
theorem lineAfter_near (n : Nat) :
    let p := (lineAfter x0 y0 x1 y1 n).pt
    2 * ((p.x - x0) * (y1 - y0) - (p.y - y0) * (x1 - x0)).natAbs ≤ max (x1 - x0).natAbs (y1 - y0).natAbs := by
  obtain ⟨i, j, hx, hy, -, hlo, hhi, -, -⟩ := lineAfter_inv x0 y0 x1 y1 n
  intro p
  have hoff : (p.x - x0) * (y1 - y0) - (p.y - y0) * (x1 - x0) =
      (i * (y1 - y0).natAbs - j * (x1 - x0).natAbs) * lineDir x0 x1 * lineDir y0 y1 := by
    linear_combination (y1 - y0) * hx - (x1 - x0) * hy - i * lineDir x0 x1 * natAbs_mul_lineDir y0 y1 +
      j * lineDir y0 y1 * natAbs_mul_lineDir x0 x1
  rw [hoff, natAbs_mul_mul_lineDir]
  omega

end Line

/-- Settles O31: by the points of the steps; the error terms are those of the steps. -/
theorem lineJoinsItsEndPoints : Obligations.LineJoinsItsEndPoints := by
  unfold Obligations.LineJoinsItsEndPoints
  intro x0 y0 x1 y1
  refine ⟨?_, ?_, ?_, fun n p r hp hr => ?_, ⟨fun n => (lineAfter x0 y0 x1 y1 n).err, ?_, fun n p r hp hr => ?_⟩,
    fun p hp => ?_⟩
  · rw [bresenham_eq_map]
    simp [lineAfter, List.range_succ_eq_map]
  · rw [bresenham_eq_map, List.range_succ, List.map_append, List.map_singleton, List.getLast?_concat, lineAfter_end]
  · rw [bresenham_eq_map, List.length_map, List.length_range]
  · obtain ⟨-, rfl⟩ := bresenham_getElem? _ _ _ _ hp
    obtain ⟨hn, rfl⟩ := bresenham_getElem? _ _ _ _ hr
    rw [lineAfter_succ]
    refine ⟨?_, ?_, lineAfter_before _ _ _ _ hn⟩
    all_goals
      simp only [LineAt.next, lineDir]
      split_ifs <;> omega
  · rfl
  · obtain ⟨-, rfl⟩ := bresenham_getElem? _ _ _ _ hp
    obtain ⟨-, rfl⟩ := bresenham_getElem? _ _ _ _ hr
    rw [lineAfter_succ]
    refine ⟨rfl, rfl, ?_⟩
    simp only [lineAfter_succ, LineAt.next]
    split_ifs <;> omega
  · obtain ⟨n, hn⟩ := List.mem_iff_getElem?.mp hp
    obtain ⟨-, rfl⟩ := bresenham_getElem? _ _ _ _ hn
    exact lineAfter_near _ _ _ _ n

end Sys2Proof.Machine
end

section
/-! PROOF. The stored form of a line (spec/20_memory.md R43, spec/44_rasterizer.md R126, spec/47_scanline_supplier.md R162):
unpacking the bytes of a packed line gives its pixel values. -/

open Sys2Proof

namespace Sys2Proof.Machine

/-- A pixel value is its own pixel value (R124). -/
@[simp] theorem pixelValue_pixelValue (d : Nat) (c : Pixel) : pixelValue d (pixelValue d c) = pixelValue d c := by
  have hle : c.toNat % 2 ^ d < 2 ^ 16 := (Nat.mod_le _ _).trans_lt c.isLt
  simp only [pixelValue, BitVec.toNat_ofNat, Nat.mod_eq_of_lt hle, Nat.mod_mod]

/-- The first `n` bytes of a bit string hold its low `8*n` bits (R43). -/
theorem stringOfBytes_bytesOfString (n v : Nat) : stringOfBytes (bytesOfString n v) = v % 256 ^ n := by
  induction n generalizing v with
  | zero => rw [Nat.pow_zero, Nat.mod_one]; rfl
  | succ n ih =>
    rw [bytesOfString, stringOfBytes, ih, BitVec.toNat_ofNat, show 256 ^ (n + 1) = 256 * 256 ^ n from Nat.pow_succ',
      Nat.mod_mul]

/-- The bit string of a line has `d` bits a pixel (R43). -/
theorem bitString_lt (d : Nat) (lb : List Pixel) : bitString d lb < 2 ^ (lb.length * d) := by
  induction lb with
  | nil => exact Nat.two_pow_pos _
  | cons p ps ih =>
    have hp : p.toNat % 2 ^ d < 2 ^ d := Nat.mod_lt _ (Nat.two_pow_pos d)
    calc bitString d (p :: ps) < 2 ^ d + 2 ^ d * bitString d ps := Nat.add_lt_add_right hp _
      _ = 2 ^ d * (bitString d ps + 1) := by ring
      _ ≤ 2 ^ d * 2 ^ (ps.length * d) := Nat.mul_le_mul_left _ ih
      _ = 2 ^ ((p :: ps).length * d) := by rw [← Nat.pow_add, List.length_cons]; ring

/-- The pixels of a line's bit string are its pixel values (R162). -/
theorem pixelsOfString_bitString (d : Nat) (lb : List Pixel) :
    pixelsOfString d lb.length (bitString d lb) = lb.map (pixelValue d) := by
  induction lb with
  | nil => rfl
  | cons p ps ih =>
    have hp : p.toNat % 2 ^ d < 2 ^ d := Nat.mod_lt _ (Nat.two_pow_pos d)
    rw [List.length_cons, pixelsOfString, bitString, Nat.add_mul_mod_self_left, Nat.mod_mod,
      Nat.add_mul_div_left _ _ (Nat.two_pow_pos d), Nat.div_eq_of_lt hp, Nat.zero_add, ih]
    rfl

/-- The bytes of a stored line hold its whole bit string (R149). -/
theorem two_pow_le_stride (n d : Nat) : 2 ^ (n * d) ≤ 256 ^ stride n d := by
  rw [show 256 = 2 ^ 8 from rfl, ← Nat.pow_mul]
  exact Nat.pow_le_pow_right (by decide) (by rw [stride]; omega)

/-- A packed line unpacks to its pixel values (R126, R162). -/
theorem unpack_pack (d : Nat) (lb : List Pixel) : unpack d lb.length (pack d lb) = lb.map (pixelValue d) := by
  rw [unpack, pack, stringOfBytes_bytesOfString,
    Nat.mod_eq_of_lt ((bitString_lt d lb).trans_le (two_pow_le_stride lb.length d)), pixelsOfString_bitString]

end Sys2Proof.Machine
end

section
/-! PROOF. One line of a pass (spec/44_rasterizer.md R125, R129 to R134): what a run of pixels leaves, inside its line and
where it leaves it; the queue as a pass holds it when it comes to a line; and what drawing the queue shows at a place. -/

open Sys2Proof Sys2Proof.Safety

namespace Sys2Proof.Machine

variable {g : Screen} {y : Nat} {lb : List Pixel} {s : State} {p : Primitive} {ps pre rest : List Primitive} {q : Span}

/-! ### A run of pixels (R125, R129, R130) -/

/-- A run that leaves its line by the right edge, from a place that is not left of the line: the first place outside is
raised, and the places inside are drawn. -/
theorem putRun_outside {w : Nat} {c : Pixel} {n x : Nat} (hn : 0 < n) (h : w < x + n) (hl : lb.length = w) :
    (putRun w y c n x lb).2 = some (.pixelOutOfRange (max (x : Int) w) y) ∧
      ∀ i : Nat, (putRun w y c n x lb).1[i]? = if x ≤ i ∧ i < w then some c else lb[i]? := by
  induction n generalizing x lb with
  | zero => omega
  | succ n ih =>
    rw [putRun]
    by_cases hx : w ≤ x
    · rw [if_pos (by omega), Int.max_eq_left (by omega)]
      exact ⟨rfl, fun i => by rw [if_neg (by omega)]⟩
    · obtain ⟨hf, hi⟩ := ih (x := x + 1) (lb := lb.set x c) (by omega) (by omega) (by rw [List.length_set, hl])
      rw [if_neg (by omega), Int.toNat_natCast]
      refine ⟨hf.trans (by rw [show max ((x + 1 : Nat) : Int) w = max (x : Int) w by omega]), fun i => (hi i).trans ?_⟩
      by_cases hix : x = i
      · rw [if_neg (by omega), if_pos (by omega), List.getElem?_set, if_pos hix, if_pos (by omega)]
      · rw [List.getElem?_set_ne hix]
        exact if_congr (by omega) rfl rfl

/-- The run of a span is empty or inside a line of `w` pixels. -/
def Span.inside (w : Nat) (q : Span) : Prop := q.x0 ≤ q.x1 → 0 ≤ q.x0 ∧ q.x1 < (w : Int)

/-- The run of a span covers place `x`. -/
def Span.covers (x : Nat) (q : Span) : Bool := decide (q.x0 ≤ (x : Int) ∧ (x : Int) ≤ q.x1)

/-- A run inside its line raises nothing, and shows its color at the places it covers. -/
theorem putSpan_inside {w : Nat} {c : Pixel} (h : q.inside w) (hl : lb.length = w) :
    (putSpan w y c q.x0 q.x1 lb).2 = none ∧
      ∀ x : Nat, (putSpan w y c q.x0 q.x1 lb).1[x]? = if q.covers x then some c else lb[x]? := by
  simp only [Span.covers, decide_eq_true_eq]
  by_cases hle : q.x0 ≤ q.x1
  · obtain ⟨h0, h1⟩ := h hle
    obtain ⟨x0, hx0⟩ := Int.eq_ofNat_of_zero_le h0
    rw [putSpan, hx0]
    obtain ⟨hf, hi⟩ := putRun_inside (y := y) (c := c) (x := x0) (n := (q.x1 - x0 + 1).toNat) (by omega) hl
    exact ⟨hf, fun x => (hi x).trans (if_congr (by omega) rfl rfl)⟩
  · rw [putSpan, show (q.x1 - q.x0 + 1).toNat = 0 by omega]
    exact ⟨rfl, fun x => by rw [if_neg (by omega)]; rfl⟩

/-- A run that leaves its line raises the first place outside; the places before it are drawn. -/
theorem putSpan_outside {w : Nat} {c : Pixel} (hle : q.x0 ≤ q.x1) (h : q.x0 < 0 ∨ (w : Int) ≤ q.x1) (hl : lb.length = w) :
    (putSpan w y c q.x0 q.x1 lb).2 = some (.pixelOutOfRange (if q.x0 < 0 then q.x0 else max q.x0 w) y) ∧
      ∀ x : Nat, 0 ≤ q.x0 → q.x0 ≤ (x : Int) → x < w → (putSpan w y c q.x0 q.x1 lb).1[x]? = some c := by
  obtain ⟨n, hn⟩ : ∃ n, (q.x1 - q.x0 + 1).toNat = n + 1 := ⟨(q.x1 - q.x0).toNat, by omega⟩
  rw [putSpan, hn]
  by_cases h0 : q.x0 < 0
  · rw [putRun, if_pos (.inl h0), if_pos h0]
    exact ⟨rfl, fun x hx => absurd hx (by omega)⟩
  · obtain ⟨x0, hx0⟩ := Int.eq_ofNat_of_zero_le (Int.not_lt.mp h0)
    rw [if_neg h0, hx0]
    obtain ⟨hf, hi⟩ := putRun_outside (y := y) (c := c) (x := x0) n.succ_pos (by omega) hl
    exact ⟨hf, fun x _ hx hw => (hi x).trans (if_pos (by omega))⟩

/-! ### The runs of a line, one over the other (R133) -/

/-- The line buffer with a run drawn on it. -/
def drawRun (g : Screen) (y : Nat) (lb : List Pixel) (q : Span) : List Pixel :=
  (putSpan g.width.toNat y (pixelValue g.depth.bits q.color) q.x0 q.x1 lb).1

@[simp] theorem drawRun_length : (drawRun g y lb q).length = lb.length := putRun_length ..

@[simp] theorem foldl_drawRun_length (qs : List Span) : (qs.foldl (drawRun g y) lb).length = lb.length := by
  induction qs generalizing lb with
  | nil => rfl
  | cons q qs ih => rw [List.foldl_cons, ih, drawRun_length]

/-- Runs inside the line show at a place the last of them that covers it, and else what was there. -/
theorem foldl_drawRun_getElem? {qs : List Span} (hl : lb.length = g.width.toNat) (hin : ∀ q ∈ qs, q.inside g.width.toNat)
    (x : Nat) :
    (qs.foldl (drawRun g y) lb)[x]? =
      ((qs.filter (Span.covers x)).getLast?.map fun q => pixelValue g.depth.bits q.color).or lb[x]? := by
  induction qs using List.reverseRecOn with
  | nil => rfl
  | append_singleton qs q ih =>
    have hlen : (qs.foldl (drawRun g y) lb).length = g.width.toNat := by rw [foldl_drawRun_length, hl]
    have hq := putSpan_inside (y := y) (c := pixelValue g.depth.bits q.color) (hin q (by simp)) hlen
    rw [List.foldl_append, List.foldl_cons, List.foldl_nil, List.filter_append]
    refine (hq.2 x).trans ?_
    by_cases hc : q.covers x = true
    · simp [hc]
    · simp [hc, ih fun r hr => hin r (List.mem_append_left _ hr)]

/-- The line buffer as a pass stores it for line `y`: the runs of the primitives on the cleared line (R132, R133). -/
def lineShown (g : Screen) (y : Nat) (color : Pixel) (ps : List Primitive) : List Pixel :=
  (ps.filterMap (spanOn y)).foldl (drawRun g y) (clearedLine g color)

@[simp] theorem lineShown_length (color : Pixel) : (lineShown g y color ps).length = g.width.toNat := by
  rw [lineShown, foldl_drawRun_length, clearedLine_length]

/-- Runs inside the line of a primitive on it. -/
theorem span_inside_of_runsInside {w n : Nat} (h : runsInside w n p) (hy : y < n) (hq : spanOn y p = some q) : q.inside w :=
  h y q hy hq

/-- Fewer lines. -/
theorem runsInside_mono {w n m : Nat} (h : runsInside w n p) (hm : m ≤ n) : runsInside w m p :=
  fun y q hy => h y q (Nat.lt_of_lt_of_le hy hm)

/-- A line shows at each place the color of the last run that covers it, and else the clear color. -/
theorem lineShown_getElem? {color : Pixel} {x : Nat} (hin : ∀ p ∈ ps, runsInside g.width.toNat (y + 1) p)
    (hx : x < g.width.toNat) :
    (lineShown g y color ps)[x]? = some (pixelValue g.depth.bits
      ((((ps.filterMap (spanOn y)).filter (Span.covers x)).getLast?.map Span.color).getD color)) := by
  have hruns : ∀ q ∈ ps.filterMap (spanOn y), q.inside g.width.toNat := fun q hq => by
    obtain ⟨p, hp, hpq⟩ := List.mem_filterMap.mp hq
    exact span_inside_of_runsInside (hin p hp) y.lt_succ_self hpq
  rw [lineShown, foldl_drawRun_getElem? (clearedLine_length g color) hruns, clearedLine,
    List.getElem?_replicate_of_lt hx]
  cases ((ps.filterMap (spanOn y)).filter (Span.covers x)).getLast? <;> rfl

/-! ### The queue when a pass comes to a line (R129, R134) -/

/-- The primitives a pass still holds when it comes to line `y`, as far advanced as it came. -/
def queueAt (y : Nat) (ps : List Primitive) : List Primitive :=
  (ps.filter fun p => decide (y ≤ lastLine p)).map (atLine y)

/-- A pass starts with the queue as it is. -/
@[simp] theorem queueAt_zero (ps : List Primitive) : queueAt 0 ps = ps := by
  have hid : atLine 0 = id := funext fun p => by cases p <;> simp [atLine, edgesAfter]
  simp [queueAt, hid]

theorem queueAt_append (y : Nat) (ps qs : List Primitive) : queueAt y (ps ++ qs) = queueAt y ps ++ queueAt y qs := by
  simp [queueAt]

/-- A primitive whose last line is past has no run. -/
theorem spanOn_of_past (h : lastLine p < y) : spanOn y p = none := by
  cases p with
  | tri t => exact if_neg fun hy => absurd hy.2 (Nat.not_le.mpr h)
  | span r => exact if_neg (Nat.ne_of_lt h)

/-- One that is still to come or has no line here is left as it is. -/
theorem atLine_succ_of_none (hq : spanOn y p = none) (h : y ≤ lastLine p) : atLine (y + 1) p = atLine y p := by
  cases p with
  | span r => rfl
  | tri t =>
    have hy : ¬(t.minY.toNat ≤ y ∧ y ≤ t.maxY.toNat) := fun hy => by rw [spanOn, if_pos hy] at hq; cases hq
    have hbefore : y < t.minY.toNat := by
      rw [lastLine] at h
      omega
    simp only [atLine, show y + 1 - t.minY.toNat = y - t.minY.toNat by omega]

/-- After its last line a primitive is retired (R134). -/
theorem retired_atLine (z : Nat) (p : Primitive) : retired y (atLine z p) = decide (lastLine p ≤ y) := by
  cases p <;> rfl

/-- The queue of a line, drawn and retired, is the queue of the next. -/
theorem filter_not_retired (y : Nat) (ps : List Primitive) :
    (((ps.filter fun p => decide (y ≤ lastLine p)).map (atLine (y + 1))).filter fun p => !retired y p) =
      queueAt (y + 1) ps := by
  rw [queueAt, List.filter_map, List.filter_filter]
  refine congrArg (List.map _) (List.filter_congr fun p _ => ?_)
  simp only [Function.comp_apply, retired_atLine]
  by_cases h : y + 1 ≤ lastLine p
  · simp [h, show ¬lastLine p ≤ y by omega, show y ≤ lastLine p by omega]
  · simp [h, show lastLine p ≤ y by omega]

/-- The runs of a line are those of the primitives a pass still holds there. -/
theorem filterMap_spanOn_filter (y : Nat) (ps : List Primitive) :
    (ps.filter fun p => decide (y ≤ lastLine p)).filterMap (spanOn y) = ps.filterMap (spanOn y) := by
  rw [List.filterMap_filter]
  refine List.filterMap_congr fun p _ => ?_
  by_cases h : y ≤ lastLine p
  · rw [if_pos (decide_eq_true h)]
  · rw [if_neg (by simpa using h), spanOn_of_past (by omega)]

/-! ### Drawing the queue (R132) -/

/-- Primitives whose runs on a line are inside it are drawn one after the other, whatever stands behind them. -/
theorem drawPrimitives_inside (drawn rest : List Primitive) (hl : s.lb.length = g.width.toNat)
    (hlast : ∀ p ∈ ps, y ≤ lastLine p) (hin : ∀ p ∈ ps, runsInside g.width.toNat (y + 1) p) :
    drawPrimitives g y drawn (ps.map (atLine y) ++ rest) s =
      drawPrimitives g y (drawn ++ ps.map (atLine (y + 1))) rest
        { s with lb := (ps.filterMap (spanOn y)).foldl (drawRun g y) s.lb } := by
  induction ps generalizing drawn s with
  | nil => simp
  | cons p ps ih =>
    obtain ⟨hlast_p, hlast⟩ := List.forall_mem_cons.mp hlast
    obtain ⟨hin_p, hin⟩ := List.forall_mem_cons.mp hin
    rw [List.map_cons, List.map_cons, List.cons_append, drawPrimitives]
    cases hq : spanOn y p with
    | none =>
      rw [drawPrimitive_off hq, List.filterMap_cons_none hq, atLine_succ_of_none hq hlast_p]
      exact (ih _ hl hlast hin).trans (by simp)
    | some q =>
      have hnone := (putSpan_inside (y := y) (c := pixelValue g.depth.bits q.color)
        (span_inside_of_runsInside hin_p y.lt_succ_self hq) hl).1
      rw [drawPrimitive_atLine hq, List.filterMap_cons_some hq, hnone]
      exact (ih (s := { s with lb := drawRun g y s.lb q }) _ (by simpa using hl) hlast hin).trans (by simp)

end Sys2Proof.Machine
end

section
/-! PROOF. PassDrawsTheSpans and PassFaults (spec/44_rasterizer.md R125, R132 to R135): what a pass has done when it has
drawn its first lines without a fault, and then its end: all lines, or a run that leaves its line, or primitives left. -/

open Sys2Proof Sys2Proof.Safety

namespace Sys2Proof.Machine

variable {g : Screen} {y n : Nat} {s t : State} {p : Primitive} {ps pre post : List Primitive} {q : Span}

/-! ### Memory after the first lines (R126, R152) -/

/-- The memory once a pass has stored its first `n` lines. -/
def memAfter (g : Screen) (s : State) : Nat → List Host.Cell
  | 0 => s.ext
  | n + 1 =>
    putBytes (lineAddr s.params g s.writeId n) (pack g.depth.bits (lineShown g n s.clearColor s.prims)) (memAfter g s n)

theorem pack_lineShown_length (g : Screen) (y : Nat) (color : Pixel) (ps : List Primitive) :
    (pack g.depth.bits (lineShown g y color ps)).length = g.stride := by rw [pack_length, lineShown_length]; rfl

/-- A line ends where the next begins (R150). -/
theorem lineAddr_succ (p : Params) (g : Screen) (plane : PlaneId) (y : Nat) :
    lineAddr p g plane (y + 1) = lineAddr p g plane y + g.stride := by
  rw [lineAddr, lineAddr, Nat.succ_mul, Nat.add_assoc]

/-- A later line is further on. -/
theorem lineAddr_mono (p : Params) (g : Screen) (plane : PlaneId) (h : y ≤ n) :
    lineAddr p g plane y ≤ lineAddr p g plane n := Nat.add_le_add_left (Nat.mul_le_mul_right _ h) _

theorem lineAddr_zero (p : Params) (g : Screen) (plane : PlaneId) : lineAddr p g plane 0 = planeBase p plane := by
  rw [lineAddr, Nat.zero_mul, Nat.add_zero]

/-- Outside the first lines memory is as before. -/
theorem memAfter_outside (g : Screen) (s : State) (n : Nat) {a : Nat}
    (h : a < planeBase s.params s.writeId ∨ lineAddr s.params g s.writeId n ≤ a) :
    tableGet a (memAfter g s n) = tableGet a s.ext := by
  induction n with
  | zero => rfl
  | succ n ih =>
    have hlo := lineAddr_mono s.params g s.writeId n.zero_le
    rw [lineAddr_zero] at hlo
    rw [lineAddr_succ] at h
    rw [memAfter, tableGet_putBytes, pack_lineShown_length, if_neg (by omega), ih (by omega)]

/-- Each of the first lines holds what it shows. -/
theorem memAfter_line (g : Screen) (s : State) (hy : y < n) {i : Nat} (hi : i < g.stride) :
    tableGet (lineAddr s.params g s.writeId y + i) (memAfter g s n) =
      (pack g.depth.bits (lineShown g y s.clearColor s.prims))[i]? := by
  induction n with
  | zero => omega
  | succ n ih =>
    rw [memAfter, tableGet_putBytes, pack_lineShown_length]
    by_cases hn : y = n
    · subst hn
      rw [if_pos (by omega), Nat.add_sub_cancel_left]
    · have hnext := lineAddr_mono s.params g s.writeId (show y + 1 ≤ n by omega)
      rw [lineAddr_succ] at hnext
      rw [if_neg (by omega), ih (by omega)]

theorem extByte_outside (ht : t.ext = memAfter g s n) {a : Nat}
    (h : a < planeBase s.params s.writeId ∨ lineAddr s.params g s.writeId n ≤ a) : extByte t a = extByte s a := by
  rw [extByte, ht, memAfter_outside g s n h, extByte]

/-- The bytes of a stored line are the packed line. -/
theorem line_bytes (ht : t.ext = memAfter g s n) (hy : y < n) :
    ((List.range g.stride).map fun i => extByte t (lineAddr s.params g s.writeId y + i)) =
      pack g.depth.bits (lineShown g y s.clearColor s.prims) := by
  have hlen := pack_lineShown_length g y s.clearColor s.prims
  refine List.ext_getElem (by rw [List.length_map, List.length_range, hlen]) fun i hi hi' => ?_
  rw [hlen] at hi'
  rw [List.getElem_map, List.getElem_range, extByte, ht, memAfter_line g s hy hi', List.getElem?_eq_getElem, Option.getD_some]

/-- A stored line unpacks to the pixel values it shows (R162). -/
theorem unpack_line (ht : t.ext = memAfter g s n) (hy : y < n) (hin : ∀ p ∈ s.prims, runsInside g.width.toNat n p) {x : Nat}
    (hx : x < g.width.toNat) :
    (unpack g.depth.bits g.width.toNat
      ((List.range g.stride).map fun i => extByte t (lineAddr s.params g s.writeId y + i)))[x]? =
      some (pixelValue g.depth.bits
        ((((s.prims.filterMap (spanOn y)).filter (Span.covers x)).getLast?.map Span.color).getD s.clearColor)) := by
  have hunpack := unpack_pack g.depth.bits (lineShown g y s.clearColor s.prims)
  rw [lineShown_length] at hunpack
  rw [line_bytes ht hy, hunpack, List.getElem?_map,
    lineShown_getElem? (fun p hp => runsInside_mono (hin p hp) hy) hx, Option.map_some, pixelValue_pixelValue]

/-! ### The first lines of a pass (R132) -/

/-- The queue of a line whose runs are inside it, drawn on the cleared line, whatever stands behind it. -/
theorem drawPrimitives_queueAt {color : Pixel} (rest : List Primitive) (hl : s.lb = clearedLine g color)
    (hin : ∀ p ∈ ps, runsInside g.width.toNat (y + 1) p) :
    drawPrimitives g y [] (queueAt y ps ++ rest) s =
      drawPrimitives g y ((ps.filter fun p => decide (y ≤ lastLine p)).map (atLine (y + 1))) rest
        { s with lb := lineShown g y color ps } := by
  have hdraw := drawPrimitives_inside (ps := ps.filter fun p => decide (y ≤ lastLine p)) [] rest
    (hl ▸ clearedLine_length g color) (fun p hp => of_decide_eq_true (List.mem_filter.mp hp).2)
    (fun p hp => hin p (List.mem_filter.mp hp).1)
  rwa [filterMap_spanOn_filter, List.nil_append, hl] at hdraw

/-- One line whose runs are inside it. -/
theorem renderLine_inside (hq : s.prims = queueAt y ps) (hin : ∀ p ∈ ps, runsInside g.width.toNat (y + 1) p)
    (hfit : lineAddr s.params g s.writeId y + g.stride ≤ s.params.extMemSize) :
    renderLine g y s = .ok { s with
      lb := lineShown g y s.clearColor ps, prims := queueAt (y + 1) ps
      ext := putBytes (lineAddr s.params g s.writeId y) (pack g.depth.bits (lineShown g y s.clearColor ps)) s.ext
      bus := .free, aPhase := .render y } := by
  have hdraw := drawPrimitives_queueAt (s := { s with lb := clearedLine g s.clearColor, aPhase := .render y }) [] rfl hin
  rw [List.append_nil, ← hq] at hdraw
  rw [renderLine_ok hdraw (lineShown_length s.clearColor) hfit, filter_not_retired]

/-- Lines one after the other. -/
theorem renderLines_append_ok {xs ys : List Nat} (h : renderLines g xs s = .ok t) :
    renderLines g (xs ++ ys) s = renderLines g ys t := by
  induction xs generalizing s with
  | nil => cases h; rfl
  | cons x xs ih =>
    rw [renderLines] at h
    rw [List.cons_append, renderLines]
    cases hr : renderLine g x s with
    | error u => rw [hr] at h; cases h
    | ok u => rw [hr] at h; exact ih h

/-- What a pass has done once it has drawn its first `n` lines, whose runs are all inside them. -/
theorem renderLines_inside (hn : n ≤ g.height.toNat) (hfit : planesFit s.params g = true) (hb : s.bus = .free)
    (hin : ∀ p ∈ s.prims, runsInside g.width.toNat n p) :
    ∃ lb phase, renderLines g (List.range n) s =
      .ok { s with lb := lb, prims := queueAt n s.prims, ext := memAfter g s n, aPhase := phase } := by
  induction n with
  | zero => exact ⟨s.lb, s.aPhase, by rw [queueAt_zero]; rfl⟩
  | succ n ih =>
    obtain ⟨lb, phase, hlines⟩ := ih (by omega) fun p hp => runsInside_mono (hin p hp) n.le_succ
    have hline := renderLine_inside (g := g) (y := n) (ps := s.prims)
      (s := { s with lb := lb, prims := queueAt n s.prims, ext := memAfter g s n, aPhase := phase }) rfl hin
      (line_inside hfit s.writeId hn)
    rw [List.range_succ, renderLines_append_ok hlines, renderLines, hline, ← hb]
    exact ⟨_, _, rfl⟩

/-! ### The pass -/

/-- A mode whose scene, if any, holds no closed mesh, so that a pass has nothing to flatten (R138). -/
def Mode.NoClosedMesh (m : Mode) : Prop := ∀ g sc, m = .graphic3D g sc → sc.meshState ≠ .closed

section NoMesh
variable (hm : s.mode.NoClosedMesh)
include hm

/-- A line that raises ends the pass. -/
theorem renderPass_of_error (h : renderLines g (List.range g.height.toNat) s = .error t) : renderPass g s = .error t := by
  simp only [renderPass, flattenFlow_open hm, h]

/-- With no primitive left after the last line the pass ends. -/
theorem renderPass_of_empty (h : renderLines g (List.range g.height.toNat) s = .ok t) (hq : t.prims = []) :
    renderPass g s = .ok (finishPass t) := by
  simp only [renderPass, flattenFlow_open hm, h, hq]
  rfl

/-- With some left it raises TriangleNotRetired (R135). -/
theorem renderPass_of_left (h : renderLines g (List.range g.height.toNat) s = .ok t) (hq : t.prims ≠ []) :
    renderPass g s = .error (t.raise (.triangleNotRetired t.prims.length)) := by
  simp only [renderPass, flattenFlow_open hm, h, List.isEmpty_iff, if_neg hq]

end NoMesh

/-- `render` in its phase with the lock and the bus free is a pass with the lock held (R132). -/
theorem exec_render_free {l : Nat} (hg : s.mode.screen? = some g) (hp : s.aPhase = .render l) (hl : s.lock = .free)
    (hb : s.bus = .free) : exec .render s = .next (flowEnd (renderPass g { s with lock := .held .a })) :=
  congrArg (stepOrWait s) (render?_free hg hp hl hb)

/-- The queue after the last line is empty when every primitive's last line is on the screen. -/
theorem queueAt_eq_nil (h : ∀ p ∈ ps, lastLine p < n) : queueAt n ps = [] := by
  rw [queueAt, List.filter_eq_nil_iff.mpr fun p hp => by simpa using h p hp]
  rfl

section Fits
variable (hm : s.mode.NoClosedMesh) (hfit : planesFit s.params g = true) (hb : s.bus = .free)
include hm hfit hb

/-- A pass whose primitives stay on the screen (R132). -/
theorem renderPass_inside (hl : s.lock = .held .a)
    (hin : ∀ p ∈ s.prims, lastLine p < g.height.toNat ∧ runsInside g.width.toNat g.height.toNat p) :
    ∃ lb, renderPass g s = .ok { s with
      lb := lb, prims := [], ext := memAfter g s g.height.toNat, mode := spin s.params s.mode, lock := .free
      tickDone := true, aPhase := .idle } := by
  obtain ⟨lb, phase, hlines⟩ := renderLines_inside (Nat.le_refl _) hfit hb fun p hp => (hin p hp).2
  rw [queueAt_eq_nil fun p hp => (hin p hp).1] at hlines
  exact ⟨lb, (renderPass_of_empty hm hlines rfl).trans (congrArg Except.ok (finishPass_held hl))⟩

/-- A pass whose runs stay inside the lines of the screen, with primitives left below it (R135). -/
theorem renderPass_below (hin : ∀ p ∈ s.prims, runsInside g.width.toNat g.height.toNat p)
    (hleft : queueAt g.height.toNat s.prims ≠ []) :
    ∃ lb phase, renderPass g s = .error { s with
      lb := lb, prims := queueAt g.height.toNat s.prims, ext := memAfter g s g.height.toNat, aPhase := phase
      fault := some (.triangleNotRetired (queueAt g.height.toNat s.prims).length) } := by
  obtain ⟨lb, phase, hlines⟩ := renderLines_inside (Nat.le_refl _) hfit hb hin
  exact ⟨lb, phase, renderPass_of_left hm hlines hleft⟩

end Fits

/-- Settles O40: each stored line unpacks to what it shows, and the pass has come to its end. -/
theorem passDrawsTheSpans : Obligations.PassDrawsTheSpans := by
  unfold Obligations.PassDrawsTheSpans
  intro s g l hg hm hfit hp hl hb hprims
  obtain ⟨lb, hpass⟩ := renderPass_inside (s := { s with lock := .held .a }) hm hfit hb rfl hprims
  refine ⟨_, exec_render_free hg hp hl hb, ?_⟩
  rw [hpass, flowEnd_ok]
  refine ⟨fun y x hy hx => unpack_line (s := { s with lock := .held .a }) rfl hy (fun p hp => (hprims p hp).2) hx,
    fun a ha => extByte_outside (s := { s with lock := .held .a }) rfl ha, ?_⟩
  rw [← hl]
  cases s.mode <;> rfl

/-! ### Runs that leave their line (R125, R175) -/

section Outside
variable (hin : ∀ r ∈ pre, runsInside g.width.toNat (y + 1) r) (hq : spanOn y p = some q) (hle : q.x0 ≤ q.x1)
  (hout : q.x0 < 0 ∨ (g.width.toNat : Int) ≤ q.x1)
include hin hq hle hout

/-- Where the run of a primitive leaves the line, drawing the queue stops with those before it drawn (R133, R169). -/
theorem drawPrimitives_outside {color : Pixel} (hl : s.lb = clearedLine g color) :
    drawPrimitives g y [] (queueAt y (pre ++ p :: post)) s = .error { s with
      lb := drawRun g y (lineShown g y color pre) q
      prims := (pre.filter fun r => decide (y ≤ lastLine r)).map (atLine (y + 1)) ++ atLine y p :: queueAt y post
      fault := some (.pixelOutOfRange (if q.x0 < 0 then q.x0 else max q.x0 g.width.toNat) y) } := by
  have hlast : y ≤ lastLine p := Nat.le_of_not_lt fun h => by rw [spanOn_of_past h] at hq; cases hq
  have hsplit : queueAt y (pre ++ p :: post) = queueAt y pre ++ atLine y p :: queueAt y post := by
    rw [queueAt_append]
    simp [queueAt, hlast]
  have hfault := (putSpan_outside (y := y) (c := pixelValue g.depth.bits q.color) hle hout
    (lineShown_length (g := g) (y := y) (ps := pre) color)).1
  rw [hsplit, drawPrimitives_queueAt _ hl hin, drawPrimitives, drawPrimitive_atLine hq, hfault]
  rfl

/-- A pass ends on the first line a run leaves: the lines before it are stored, and the places of the run before the one
raised are drawn. -/
theorem renderPass_outside (hm : s.mode.NoClosedMesh) (hfit : planesFit s.params g = true) (hb : s.bus = .free)
    (hps : s.prims = pre ++ p :: post) (hy : y < g.height.toNat) (hbefore : ∀ r ∈ s.prims, runsInside g.width.toNat y r) :
    ∃ lb, renderPass g s = .error { s with
        lb := lb
        prims := (pre.filter fun r => decide (y ≤ lastLine r)).map (atLine (y + 1)) ++ atLine y p :: queueAt y post
        ext := memAfter g s y, aPhase := .render y
        fault := some (.pixelOutOfRange (if q.x0 < 0 then q.x0 else max q.x0 g.width.toNat) y) } ∧
      ∀ x : Nat, 0 ≤ q.x0 → q.x0 ≤ (x : Int) → x < g.width.toNat → lb[x]? = some (pixelValue g.depth.bits q.color) := by
  refine ⟨drawRun g y (lineShown g y s.clearColor pre) q, renderPass_of_error hm ?_,
    (putSpan_outside hle hout (lineShown_length s.clearColor)).2⟩
  obtain ⟨lb, phase, hlines⟩ := renderLines_inside (Nat.le_of_lt hy) hfit hb hbefore
  obtain ⟨k, hk⟩ := Nat.exists_eq_add_of_lt hy
  have hrange : List.range g.height.toNat = List.range y ++ y :: (List.range k).map (y + 1 + ·) := by
    rw [hk, Nat.add_right_comm, List.range_add, List.range_succ]
    simp
  rw [hrange, renderLines_append_ok hlines, renderLines, renderLine, hps, drawPrimitives_outside hin hq hle hout rfl]

end Outside

/-- Settles O42: a run that leaves its line ends the pass there; else it comes to the primitives left below the screen. -/
theorem passFaults : Obligations.PassFaults := by
  unfold Obligations.PassFaults
  intro s g l hg hm hfit hp hl hb
  refine ⟨fun pre p post y q hps hy hbefore hin hq hle hout => ?_, fun hin ⟨r, hr, hbelow⟩ => ?_⟩
  · obtain ⟨lb, hpass, hdrawn⟩ :=
      renderPass_outside (s := { s with lock := .held .a }) hin hq hle hout hm hfit hb hps hy hbefore
    refine ⟨_, exec_render_free hg hp hl hb, ?_⟩
    rw [hpass, flowEnd_error]
    exact ⟨rfl, rfl, rfl, hdrawn, fun a ha => extByte_outside (s := { s with lock := .held .a }) rfl (.inr ha)⟩
  · have hleft : queueAt g.height.toNat s.prims ≠ [] :=
      List.ne_nil_of_mem (List.mem_map_of_mem (List.mem_filter.mpr ⟨hr, decide_eq_true hbelow⟩))
    obtain ⟨lb, phase, hpass⟩ := renderPass_below (s := { s with lock := .held .a }) hm hfit hb hin hleft
    refine ⟨_, exec_render_free hg hp hl hb, ?_⟩
    rw [hpass, flowEnd_error]
    exact ⟨congrArg (fun n => some (FaultInfo.triangleNotRetired n)) (List.length_map _), rfl, rfl⟩

end Sys2Proof.Machine
end

section
/-! PROOF. GoldenRaster (spec/44_rasterizer.md R137): the triangle's edges line by line, and the pass over it. -/

open Sys2Proof Sys2Proof.Safety

namespace Sys2Proof.Machine

/-- The golden triangle (R137): its vertices in order are (9, 1), (1, 5), (9, 9). -/
def goldenTri (c : Pixel) : Tri := prepareSorted ⟨9, 1⟩ ⟨1, 5⟩ ⟨9, 9⟩ c

theorem prepare_golden (c : Pixel) : prepare ⟨1, 5⟩ ⟨9, 9⟩ ⟨9, 1⟩ c = goldenTri c :=
  prepare_of_perm (by decide) rfl rfl c

/-- The color has no part in the edges. -/
theorem edgesAfter_color (t : Tri) (c : Pixel) (n : Nat) : edgesAfter { t with color := c } n = edgesAfter t n := by
  induction n with
  | zero => rfl
  | succ n ih => simp only [edgesAfter, ih]

/-- The left edge of the golden triangle on its `n`-th line. -/
def goldenLeft (n : Nat) : Nat := 9 - 2 * min n (8 - n)

/-- The left edge moves two pixels a line, out to line 5 and back; the right edge stands at 9. -/
theorem golden_edges (c : Pixel) {n : Nat} (hn : n ≤ 8) :
    edgesAfter (goldenTri c) n = (f32OfInt (goldenLeft n), f32OfInt 9) := by
  have hall : ∀ n, n ≤ 8 → edgesAfter (goldenTri 0#16) n = (f32OfInt (goldenLeft n), f32OfInt 9) := by decide +kernel
  exact (edgesAfter_color (goldenTri 0#16) c n).trans (hall n hn)

/-- The run of the golden triangle on each of its lines (R137). -/
theorem spanOn_golden (c : Pixel) {y : Nat} (hy : 1 ≤ y ∧ y ≤ 9) :
    spanOn y (.tri (goldenTri c)) = some ⟨BitVec.ofNat 16 y, goldenLeft (y - 1), 9, c⟩ := by
  have hleft : goldenLeft (y - 1) ≤ 9 := Nat.sub_le _ _
  have hround : ∀ n : Nat, n ≤ 9 → f32RoundAway (f32OfInt n) = n := fun n hn => (f32OfInt_round_trip (by omega)).2.1
  refine (if_pos hy).trans (congrArg some ?_)
  show Span.mk _ (f32RoundAway (edgesAfter (goldenTri c) (y - 1)).1) (f32RoundAway (edgesAfter (goldenTri c) (y - 1)).2) c = _
  rw [golden_edges c (by omega), hround _ hleft]
  exact congrArg (Span.mk _ _ · c) (hround 9 le_rfl)

theorem spanOn_golden_off (c : Pixel) {y : Nat} (hy : ¬(1 ≤ y ∧ y ≤ 9)) : spanOn y (.tri (goldenTri c)) = none :=
  if_neg hy

/-- Its runs stay inside every screen of at least ten pixels. -/
theorem runsInside_golden (c : Pixel) {w : Nat} (hw : 10 ≤ w) (n : Nat) : runsInside w n (.tri (goldenTri c)) := by
  intro y q _ hq _
  by_cases hy : 1 ≤ y ∧ y ≤ 9
  · cases (spanOn_golden c hy).symm.trans hq
    exact ⟨Int.natCast_nonneg _, Int.ofNat_lt.mpr hw⟩
  · cases (spanOn_golden_off c hy).symm.trans hq

/-- What it shows at a place: its color within the raster, elsewhere what the line was cleared to (R137). -/
theorem golden_shown (c clear : Pixel) (x y : Nat) :
    (((([Primitive.tri (goldenTri c)].filterMap (spanOn y)).filter (Span.covers x)).getLast?.map Span.color).getD clear) =
      if 1 ≤ y ∧ y ≤ 9 ∧ 9 - 2 * min (y - 1) (9 - y) ≤ x ∧ x ≤ 9 then c else clear := by
  by_cases hline : 1 ≤ y ∧ y ≤ 9
  · have hleft : goldenLeft (y - 1) = 9 - 2 * min (y - 1) (9 - y) := by rw [goldenLeft]; omega
    have hcov : Span.covers x ⟨BitVec.ofNat 16 y, goldenLeft (y - 1), 9, c⟩ = decide (goldenLeft (y - 1) ≤ x ∧ x ≤ 9) :=
      decide_eq_decide.mpr (by dsimp only; omega)
    rw [List.filterMap_cons_some (spanOn_golden c hline), List.filterMap_nil, List.filter_singleton, hcov]
    by_cases hx : goldenLeft (y - 1) ≤ x ∧ x ≤ 9
    · rw [decide_eq_true hx, if_pos (by omega)]
      rfl
    · rw [decide_eq_false hx, if_neg (by omega)]
      rfl
  · rw [List.filterMap_cons_none (spanOn_golden_off c hline), if_neg (by omega)]
    rfl

/-- Settles O41: the command queues the golden triangle, and the pass shows its runs. -/
theorem goldenRaster : Obligations.GoldenRaster := by
  unfold Obligations.GoldenRaster
  intro s g c l hg hm hfit hp hl hb hprims hw hh
  have hu : exec (.drawTriangle 1#16 5#16 9#16 9#16 9#16 1#16 c) s =
      .next { s with prims := [.tri (goldenTri c)] } := by
    refine congrArg Host.Outcome.next ?_
    rw [drawTriangle, if_pos (isGraphic_of_screen hg), State.addTriangle, hprims]
    exact congrArg (fun t => { s with prims := [.tri t] }) (prepare_golden c)
  have hscreen : ∀ p ∈ [Primitive.tri (goldenTri c)],
      lastLine p < g.height.toNat ∧ runsInside g.width.toNat g.height.toNat p :=
    List.forall_mem_singleton.mpr ⟨hh, runsInside_golden c hw _⟩
  obtain ⟨t, ht, hpixel, -, hend⟩ :=
    passDrawsTheSpans { s with prims := [.tri (goldenTri c)] } g l hg hm hfit hp hl hb hscreen
  refine ⟨_, t, hu, ht, by rw [hend], by rw [hend], fun y x hy hx => (hpixel y x hy hx).trans ?_⟩
  exact congrArg (fun v => some (pixelValue g.depth.bits v)) (golden_shown c s.clearColor x y)

end Sys2Proof.Machine
end

section
/-! PROOF. RotationsAreRoundedRotationMatrices (spec/45_pipeline_3d.md R139): every rotation is the matrix of an integer
quaternion other than zero, whose rows over the quaternion's norm form a rotation matrix and are rounded once each. -/

open Sys2Proof

namespace Sys2Proof.Machine

/-! ### Rows of integers -/

/-- A row of a matrix before it is divided by the norm and rounded. -/
structure IntRow where
  x : Int
  y : Int
  z : Int

def IntRow.dot (r t : IntRow) : Int := r.x * t.x + r.y * t.y + r.z * t.z

/-- The row over `n`, rounded to binary32. -/
def IntRow.over (r : IntRow) (n : Nat) : Vec3 := ⟨f32OfRatio r.x n, f32OfRatio r.y n, f32OfRatio r.z n⟩

/-- A ratio of magnitude at most 1 does not overflow, and is rounded to the nearest value, ties to even. -/
theorem f32OfRatio_nearest {m : Int} {n : Nat} (hn : 0 < n) (hm : m.natAbs ≤ n) :
    f32Finite (f32OfRatio m n) = true ∧ NearestEven (f32OfRatio m n) (m * 2 ^ 149) n := by
  have hfin : f32Finite (f32OfRatio m n) = true := by
    rw [f32OfRatio, f32Finite_pack_iff _ _ hn, f32Unit]
    omega
  have hnear := f32Pack_nearest _ _ hn hfin
  rw [signed_mul_right, signed_natAbs] at hnear
  exact ⟨hfin, hnear⟩

/-- No entry of a row is longer than the row. -/
theorem IntRow.natAbs_le {r : IntRow} {n : Nat} (h : r.dot r = n * n) :
    r.x.natAbs ≤ n ∧ r.y.natAbs ≤ n ∧ r.z.natAbs ≤ n := by
  rw [IntRow.dot] at h
  have hx := mul_self_nonneg r.x
  have hy := mul_self_nonneg r.y
  have hz := mul_self_nonneg r.z
  exact ⟨Int.natAbs_le_iff_mul_self_le (b := n).mpr (by omega), Int.natAbs_le_iff_mul_self_le (b := n).mpr (by omega),
    Int.natAbs_le_iff_mul_self_le (b := n).mpr (by omega)⟩

/-- The entries of a row of length `n`, over `n`, are rounded to the nearest. -/
theorem IntRow.over_nearest {r : IntRow} {n : Nat} (hn : 0 < n) (h : r.dot r = n * n) {x : F32} {m : Int}
    (hx : (x, m) ∈ [((r.over n).x, r.x), ((r.over n).y, r.y), ((r.over n).z, r.z)]) :
    f32Finite x = true ∧ NearestEven x (m * 2 ^ 149) n := by
  obtain ⟨hrx, hry, hrz⟩ := IntRow.natAbs_le h
  simp only [List.mem_cons, List.not_mem_nil, or_false, Prod.mk.injEq] at hx
  obtain ⟨rfl, rfl⟩ | ⟨rfl, rfl⟩ | ⟨rfl, rfl⟩ := hx
  · exact f32OfRatio_nearest hn hrx
  · exact f32OfRatio_nearest hn hry
  · exact f32OfRatio_nearest hn hrz

/-! ### The rows of a quaternion's matrix -/

namespace Quaternion
variable (q : Quaternion)

def row0 : IntRow :=
  ⟨q.w * q.w + q.x * q.x - q.y * q.y - q.z * q.z, 2 * (q.x * q.y - q.w * q.z), 2 * (q.x * q.z + q.w * q.y)⟩

def row1 : IntRow :=
  ⟨2 * (q.x * q.y + q.w * q.z), q.w * q.w - q.x * q.x + q.y * q.y - q.z * q.z, 2 * (q.y * q.z - q.w * q.x)⟩

def row2 : IntRow :=
  ⟨2 * (q.x * q.z - q.w * q.y), 2 * (q.y * q.z + q.w * q.x), q.w * q.w - q.x * q.x - q.y * q.y + q.z * q.z⟩

/-- The matrix is these rows over the norm, rounded (R139). -/
theorem matrix_eq_rows {q : Quaternion} (h : 0 < q.norm) :
    q.matrix = ⟨q.row0.over q.norm, q.row1.over q.norm, q.row2.over q.norm⟩ := if_neg h.ne'

theorem norm_eq : (q.norm : Int) = q.w * q.w + q.x * q.x + q.y * q.y + q.z * q.z :=
  Int.toNat_of_nonneg (by linarith [mul_self_nonneg q.w, mul_self_nonneg q.x, mul_self_nonneg q.y, mul_self_nonneg q.z])

/-- Each row is as long as the norm says. -/
theorem row_length : q.row0.dot q.row0 = q.norm * q.norm ∧ q.row1.dot q.row1 = q.norm * q.norm ∧
    q.row2.dot q.row2 = q.norm * q.norm := by
  rw [norm_eq, IntRow.dot, IntRow.dot, IntRow.dot, row0, row1, row2]
  refine ⟨?_, ?_, ?_⟩ <;> ring

/-- The rows are orthogonal. -/
theorem row_orthogonal : q.row0.dot q.row1 = 0 ∧ q.row0.dot q.row2 = 0 ∧ q.row1.dot q.row2 = 0 := by
  rw [IntRow.dot, IntRow.dot, IntRow.dot, row0, row1, row2]
  refine ⟨?_, ?_, ?_⟩ <;> ring

/-- Their determinant is that of a rotation, scaled. -/
theorem row_det : q.row0.x * (q.row1.y * q.row2.z - q.row1.z * q.row2.y) -
    q.row0.y * (q.row1.x * q.row2.z - q.row1.z * q.row2.x) +
    q.row0.z * (q.row1.x * q.row2.y - q.row1.y * q.row2.x) = q.norm * q.norm * q.norm := by
  rw [norm_eq, row0, row1, row2]
  ring

end Quaternion

/-! ### Rotations -/

/-- The quaternion 1 turns nothing. -/
theorem matrix_one : Quaternion.matrix ⟨1, 0, 0, 0⟩ = Mat3.identity := by decide +kernel

/-- Every rotation is that of a quaternion other than zero (R139, log 17). -/
theorem exists_quaternion_rotation (angle : F32) : ∃ q : Quaternion, 0 < q.norm ∧ rotation angle = q.matrix := by
  rw [rotation]
  split
  · exact ⟨⟨1, 0, 0, 0⟩, by decide, matrix_one.symm⟩
  · by_cases h0 : (Config.rotationAt angle).norm = 0
    · exact ⟨⟨1, 0, 0, 0⟩, by decide, by rw [matrix_one, Quaternion.matrix, if_pos h0]⟩
    · exact ⟨_, Nat.pos_of_ne_zero h0, rfl⟩

/-- Settles O60: the rows of the quaternion's matrix over its norm. -/
theorem rotationsAreRoundedRotationMatrices : Obligations.RotationsAreRoundedRotationMatrices := by
  unfold Obligations.RotationsAreRoundedRotationMatrices
  intro angle
  obtain ⟨q, hq, hrot⟩ := exists_quaternion_rotation angle
  obtain ⟨hlen0, hlen1, hlen2⟩ := q.row_length
  obtain ⟨h01, h02, h12⟩ := q.row_orthogonal
  refine ⟨fun h => if_pos h, q.row0.x, q.row0.y, q.row0.z, q.row1.x, q.row1.y, q.row1.z, q.row2.x, q.row2.y, q.row2.z,
    q.norm, by omega, hlen0, hlen1, hlen2, h01, h02, h12, q.row_det, fun x m hx => ?_⟩
  rw [hrot, Quaternion.matrix_eq_rows hq] at hx
  have hnear : f32Finite x = true ∧ NearestEven x (m * 2 ^ 149) q.norm := by
    rcases List.mem_append (s := [_, _, _]).mp hx with hx | hx
    · exact IntRow.over_nearest hq hlen0 hx
    · rcases List.mem_append (s := [_, _, _]).mp hx with hx | hx
      · exact IntRow.over_nearest hq hlen1 hx
      · exact IntRow.over_nearest hq hlen2 hx
  exact ⟨hnear.1, fun r _ => hnear.2 r⟩

end Sys2Proof.Machine
end

section
/-! PROOF. VertexMapsToItsPixel (spec/45_pipeline_3d.md R139 to R145): the divide coordinate by coordinate, when a pair of
coordinates is a pixel, and the example of R144 and R145. -/

open Sys2Proof

namespace Sys2Proof.Machine

/-! ### The divide and the truncation -/

theorem divide_x (eps : F32) (c : Vec4) :
    (divide eps c).x = if f32Lt (f32Abs c.w) eps = true then c.x else f32Div c.x c.w := by
  rw [divide]
  split <;> rfl

theorem divide_y (eps : F32) (c : Vec4) :
    (divide eps c).y = if f32Lt (f32Abs c.w) eps = true then c.y else f32Div c.y c.w := by
  rw [divide]
  split <;> rfl

/-- A coordinate is out of range when it is no finite value or not below 2^31. -/
theorem f32OutOfInt32_iff {x : F32} : f32OutOfInt32 x = true ↔ f32Finite x = false ∨ 2 ^ 180 ≤ (f32Val x).natAbs := by
  rw [f32OutOfInt32, Bool.or_eq_true, Bool.not_eq_true', decide_eq_true_iff, natAbs_f32Val]
  rfl

/-- The vertex in clip coordinates (R139 to R141). -/
def clipOf (p : Params) (m : Scene) (v : Vertex3) : Vec4 :=
  project m.proj (translate p.tz (rotate m.angle ⟨v.x, v.y, v.z⟩))

/-- A vertex is at the truncated viewport coordinates when both are in range, and else nowhere (R144). -/
theorem toPixel?_eq_viewport (p : Params) (g : Screen) (m : Scene) (v : Vertex3) :
    let c := viewport g (divide p.eps (clipOf p m v))
    toPixel? p g m v = if f32OutOfInt32 c.1 || f32OutOfInt32 c.2 then none else some ⟨f32Trunc c.1, f32Trunc c.2⟩ := rfl

/-! ### The example of R144 and R145 -/

/-- A bound below 1 is below 2. -/
theorem f32Lt_two_of_lt_one {eps : F32} (h : f32Lt eps 0x3F800000#32 = true) : f32Lt 0x40000000#32 eps = false := by
  have hone : f32Order 0x3F800000#32 = 0x3F800000 := by decide
  have htwo : f32Order 0x40000000#32 = 0x40000000 := by decide
  simp only [f32Lt, Bool.and_eq_true, decide_eq_true_iff] at h
  rw [f32Lt, htwo, decide_eq_false (by omega), Bool.and_false]

/-- The matrix that R145's example writes. -/
def exampleMatrix : Mat4 :=
  { r0 := ⟨0x3F800000#32, 0#32, 0#32, 0#32⟩, r1 := ⟨0#32, 0x3F800000#32, 0#32, 0#32⟩
    r2 := ⟨0#32, 0#32, 0xC0000000#32, 0xC0400000#32⟩, r3 := ⟨0#32, 0#32, 0xBF800000#32, 0#32⟩ }

theorem perspective_example :
    perspective 0x3FC90FDB#32 0x3F800000#32 0x3F800000#32 0x40400000#32 = exampleMatrix := by decide +kernel

/-- The vertex (1, 1, 0), two away from the camera, has the clip coordinates (1, 1, 1, 2). -/
theorem clip_example : project exampleMatrix (translate 0x40000000#32 (rotate 0#32 ⟨0x3F800000#32, 0x3F800000#32, 0#32⟩)) =
    ⟨0x3F800000#32, 0x3F800000#32, 0x3F800000#32, 0x40000000#32⟩ := by decide +kernel

/-- Settles O59: the rules' operations in their order, and the example. -/
theorem vertexMapsToItsPixel : Obligations.VertexMapsToItsPixel := by
  unfold Obligations.VertexMapsToItsPixel
  refine ⟨fun p g m v => ?_, fun p g m color htz heps hw hh hangle hproj => ?_⟩
  · intro turned x y z clip divided px py
    have hx : (viewport g (divide p.eps (clipOf p m v))).1 = px :=
      congrArg (fun c => f32Mul (f32Add c _) _) (divide_x p.eps (clipOf p m v))
    have hy : (viewport g (divide p.eps (clipOf p m v))).2 = py :=
      congrArg (fun c => f32Mul (f32Sub _ c) _) (divide_y p.eps (clipOf p m v))
    rw [toPixel?_eq_viewport, hx, hy]
    refine ⟨fun hfx hfy hbx hby => if_neg ?_, fun hout => if_pos ?_⟩
    · rw [Bool.or_eq_true, f32OutOfInt32_iff, f32OutOfInt32_iff, hfx, hfy]
      simp only [Bool.true_eq_false, false_or]
      omega
    · rw [Bool.or_eq_true, f32OutOfInt32_iff, f32OutOfInt32_iff]
      tauto
  · rw [perspective_example] at hproj
    refine ⟨hproj, ?_⟩
    have hdiv : divide p.eps (clipOf p m ⟨0x3F800000#32, 0x3F800000#32, 0#32, color⟩) =
        ⟨f32Div 0x3F800000#32 0x40000000#32, f32Div 0x3F800000#32 0x40000000#32, f32Div 0x3F800000#32 0x40000000#32⟩ := by
      rw [clipOf, hproj, htz, hangle, clip_example]
      exact if_neg (Bool.eq_false_iff.mp (f32Lt_two_of_lt_one heps))
    rw [toPixel?_eq_viewport, hdiv, viewport, hw, hh]
    decide +kernel

end Sys2Proof.Machine
end

section
/-! PROOF. FlattenEmptiesAClosedMesh (spec/45_pipeline_3d.md R138, R144, spec/44_rasterizer.md R132): flattening takes the
groups of three that map to pixels one by one; what is left of the mesh is too short for a group, or its first group has a
vertex without a pixel. -/

open Sys2Proof

namespace Sys2Proof.Machine

/-- `ts` are the triangles of the first groups of three of `vs`, where their vertices map to pixels (R138). -/
def GroupTriangles (p : Params) (g : Screen) (m : Scene) (vs : List Vertex3) (ts : List Tri) : Prop :=
  ∀ k v0 v1 v2 p0 p1 p2, k < ts.length → vs[3 * k]? = some v0 → vs[3 * k + 1]? = some v1 → vs[3 * k + 2]? = some v2 →
    toPixel? p g m v0 = some p0 → toPixel? p g m v1 = some p1 → toPixel? p g m v2 = some p2 →
    ts[k]? = some (prepare p0 p1 p2 v0.color)

/-- The state with triangles queued behind its primitives. -/
def State.queueTriangles (ts : List Tri) (s : State) : State := { s with prims := s.prims ++ ts.map .tri }

section Flatten
variable {g : Screen} {m : Scene}

/-! ### Groups of three -/

theorem GroupTriangles.cons {p : Params} {v0 v1 v2 : Vertex3} {p0 p1 p2 : Point} {vs : List Vertex3} {ts : List Tri}
    (h0 : toPixel? p g m v0 = some p0) (h1 : toPixel? p g m v1 = some p1) (h2 : toPixel? p g m v2 = some p2)
    (h : GroupTriangles p g m vs ts) :
    GroupTriangles p g m (v0 :: v1 :: v2 :: vs) (prepare p0 p1 p2 v0.color :: ts) := by
  intro k u0 u1 u2 q0 q1 q2 hk hu0 hu1 hu2 hq0 hq1 hq2
  cases k with
  | zero =>
    cases hu0; cases hu1; cases hu2
    cases h0.symm.trans hq0; cases h1.symm.trans hq1; cases h2.symm.trans hq2
    rfl
  | succ k => exact h k u0 u1 u2 q0 q1 q2 (Nat.lt_of_succ_lt_succ hk) hu0 hu1 hu2 hq0 hq1 hq2

/-- A group that maps to pixels queues its triangle. -/
theorem flattenTriangles_group {s : State} {v0 v1 v2 : Vertex3} {p0 p1 p2 : Point} (vs : List Vertex3)
    (h0 : toPixel? s.params g m v0 = some p0) (h1 : toPixel? s.params g m v1 = some p1)
    (h2 : toPixel? s.params g m v2 = some p2) :
    flattenTriangles g m (v0 :: v1 :: v2 :: vs) s =
      flattenTriangles g m vs (s.queueTriangles [prepare p0 p1 p2 v0.color]) := by
  simp only [flattenTriangles, toPixelFlow, h0, h1, h2]
  rfl

/-- The first `n` groups, all of whose vertices map to pixels, queue their triangles (R138). -/
theorem flattenTriangles_groups (n : Nat) (vs : List Vertex3) (s : State) (hn : 3 * n ≤ vs.length)
    (hmap : ∀ v ∈ vs.take (3 * n), toPixel? s.params g m v ≠ none) :
    ∃ ts : List Tri, ts.length = n ∧ GroupTriangles s.params g m vs ts ∧
      flattenTriangles g m vs s = flattenTriangles g m (vs.drop (3 * n)) (s.queueTriangles ts) := by
  induction n generalizing vs s with
  | zero => exact ⟨[], rfl, nofun, by rw [State.queueTriangles, List.map_nil, List.append_nil]; rfl⟩
  | succ n ih =>
    match vs, hn, hmap with
    | v0 :: v1 :: v2 :: rest, hn, hmap =>
      simp only [Nat.mul_succ, List.take_succ_cons, List.forall_mem_cons, Option.ne_none_iff_exists'] at hmap
      obtain ⟨⟨p0, h0⟩, ⟨p1, h1⟩, ⟨p2, h2⟩, hrest⟩ := hmap
      obtain ⟨ts, hlen, hts, heq⟩ := ih rest (s.queueTriangles [prepare p0 p1 p2 v0.color])
        (by simp only [List.length_cons] at hn; omega) fun v hv => Option.ne_none_iff_exists'.mpr (hrest v hv)
      refine ⟨prepare p0 p1 p2 v0.color :: ts, by rw [List.length_cons, hlen], hts.cons h0 h1 h2, ?_⟩
      rw [flattenTriangles_group rest h0 h1 h2, heq]
      simp only [State.queueTriangles, List.append_assoc, List.map_cons, List.map_nil, List.singleton_append,
        Nat.mul_succ, List.drop_succ_cons]

/-! ### What is left -/

/-- One or two vertices left over are ignored. -/
theorem flattenTriangles_short {vs : List Vertex3} (h : vs.length < 3) (s : State) : flattenTriangles g m vs s = .ok s := by
  match vs, h with
  | [], _ => rfl
  | [_], _ => rfl
  | [_, _], _ => rfl

/-- A group whose first vertex without a pixel is `v` raises NonFiniteVertex (R144). -/
theorem flattenTriangles_raises {s : State} {v : Vertex3} {pre post : List Vertex3} (hpre : pre.length < 3)
    (hgroup : 3 ≤ (pre ++ v :: post).length) (hmap : ∀ u ∈ pre, toPixel? s.params g m u ≠ none)
    (hv : toPixel? s.params g m v = none) :
    flattenTriangles g m (pre ++ v :: post) s = .error (s.raise (.nonFiniteVertex v)) := by
  simp only [Option.ne_none_iff_exists'] at hmap
  match pre, post with
  | [], _ :: _ :: _ => simp only [List.nil_append, flattenTriangles, toPixelFlow, hv]
  | [u0], _ :: _ =>
    obtain ⟨p0, h0⟩ := hmap u0 (by simp)
    simp only [List.singleton_append, flattenTriangles, toPixelFlow, h0, hv]
  | [u0, u1], _ =>
    obtain ⟨p0, h0⟩ := hmap u0 (by simp)
    obtain ⟨p1, h1⟩ := hmap u1 (by simp)
    simp only [List.cons_append, List.nil_append, flattenTriangles, toPixelFlow, h0, h1, hv]

/-! ### The whole mesh -/

variable {s : State} (hm : s.mode = .graphic3D g m) (hc : m.meshState = .closed)
include hm hc

/-- A closed mesh whose groups map to pixels is queued and cleared (R138). -/
theorem flattenFlow_mapped (hmap : ∀ i v, i < m.mesh.length / 3 * 3 → m.mesh[i]? = some v → toPixel? s.params g m v ≠ none) :
    ∃ ts : List Tri, ts.length = m.mesh.length / 3 ∧ GroupTriangles s.params g m m.mesh ts ∧
      flattenFlow s =
        .ok { s.queueTriangles ts with mode := .graphic3D g { m with mesh := [], meshState := .idle } } := by
  obtain ⟨ts, hlen, hts, heq⟩ := flattenTriangles_groups (m.mesh.length / 3) m.mesh s (Nat.mul_div_le ..) fun v hv => by
    obtain ⟨i, hi, hiv⟩ := List.mem_take_iff_getElem.mp hv
    exact hmap i v (by omega) (hiv ▸ List.getElem?_eq_getElem _)
  exact ⟨ts, hlen, hts, by rw [flattenFlow_closed hm hc, heq, flattenTriangles_short (by rw [List.length_drop]; omega)]⟩

/-- A closed mesh with a vertex `v` without a pixel in a whole group, the first one, is kept, with the groups before queued
and NonFiniteVertex raised (R138, R144). -/
theorem flattenFlow_raises {v : Vertex3} {pre post : List Vertex3} (hmesh : m.mesh = pre ++ v :: post)
    (hgroup : pre.length / 3 * 3 + 3 ≤ m.mesh.length) (hmap : ∀ u ∈ pre, toPixel? s.params g m u ≠ none)
    (hv : toPixel? s.params g m v = none) :
    ∃ ts : List Tri, ts.length = pre.length / 3 ∧ GroupTriangles s.params g m m.mesh ts ∧
      flattenFlow s = .error ((s.queueTriangles ts).raise (.nonFiniteVertex v)) := by
  have hle : 3 * (pre.length / 3) ≤ pre.length := Nat.mul_div_le ..
  obtain ⟨ts, hlen, hts, heq⟩ := flattenTriangles_groups (pre.length / 3) m.mesh s (by omega) fun u hu => by
    rw [hmesh, List.take_append_of_le_length hle] at hu
    exact hmap u (List.mem_of_mem_take hu)
  have hdrop : m.mesh.drop (3 * (pre.length / 3)) = pre.drop (3 * (pre.length / 3)) ++ v :: post := by
    rw [hmesh, List.drop_append_of_le_length hle]
  have hstop := flattenTriangles_raises (s := s.queueTriangles ts) (v := v) (post := post)
    (pre := pre.drop (3 * (pre.length / 3))) (by rw [List.length_drop]; omega)
    (by rw [← hdrop, List.length_drop]; omega) (fun u hu => hmap u (List.mem_of_mem_drop hu)) hv
  exact ⟨ts, hlen, hts, by rw [flattenFlow_closed hm hc, heq, hdrop, hstop]⟩

end Flatten

/-- A pass in its phase with the lock and the bus free, over a scene that flattening leaves `u` of, is the pass over `u`. -/
theorem exec_render_flattened {g : Screen} {l : Nat} {s u : State} (hs : s.mode.screen? = some g)
    (hp : s.aPhase = .render l) (hl : s.lock = .free) (hb : s.bus = .free) (h : flattenFlow s = .ok u) :
    exec .render s = exec .render u := by
  have hspec := flattenFlow_spec s
  rw [h] at hspec
  obtain ⟨prims, mode, hscreen, -, -, hu⟩ := hspec
  have hs' : u.mode.screen? = some g := by rw [hu]; exact hscreen.trans hs
  have hp' : u.aPhase = .render l := by rw [hu]; exact hp
  have hl' : u.lock = .free := by rw [hu]; exact hl
  have hb' : u.bus = .free := by rw [hu]; exact hb
  have hflat : flattenFlow { s with lock := .held .a } = .ok { u with lock := .held .a } := by
    rw [flattenFlow_lock, h]
    rfl
  rw [exec_render_free hs hp hl hb, exec_render_free hs' hp' hl' hb', renderPass_flattened hflat]

/-- Where flattening raises, the pass ends there, with the lock held. -/
theorem exec_render_flatten_raises {g : Screen} {l : Nat} {s u : State} (hs : s.mode.screen? = some g)
    (hp : s.aPhase = .render l) (hl : s.lock = .free) (hb : s.bus = .free) (h : flattenFlow s = .error u) :
    exec .render s = .next { u with lock := .held .a } := by
  have hflat : flattenFlow { s with lock := .held .a } = .error { u with lock := .held .a } := by
    rw [flattenFlow_lock, h]
    rfl
  rw [exec_render_free hs hp hl hb, renderPass, hflat]
  rfl

/-- Settles O32: by whether the vertices of the whole groups map to pixels, for `flatten` and for a pass. -/
theorem flattenEmptiesAClosedMesh : Obligations.FlattenEmptiesAClosedMesh := by
  unfold Obligations.FlattenEmptiesAClosedMesh
  intro s
  have hexec : exec .flatten s = .next (flowEnd (flattenFlow s)) := rfl
  refine ⟨fun g m hm hc hmap => ?_, fun g m v pre post hm hc hmesh hgroup hmap hv => ?_, fun ho => ?_,
    fun g m l hm hc hp hl hb => ⟨fun hmap => ?_, fun v pre post hmesh hgroup hmap hv => ?_⟩⟩
  · obtain ⟨ts, hlen, hts, hflow⟩ := flattenFlow_mapped hm hc hmap
    refine ⟨ts, hlen, fun k v0 v1 v2 p0 p1 p2 h0 h1 h2 => hts k v0 v1 v2 p0 p1 p2 ?_ h0 h1 h2, by rw [hexec, hflow]; rfl⟩
    have hlt : 3 * k + 2 < m.mesh.length := (List.getElem?_eq_some_iff.mp h2).1
    omega
  · obtain ⟨ts, hlen, hts, hflow⟩ := flattenFlow_raises hm hc hmesh hgroup hmap hv
    exact ⟨ts, hlen, fun k v0 v1 v2 p0 p1 p2 hk => hts k v0 v1 v2 p0 p1 p2 (hlen ▸ hk), by rw [hexec, hflow]; rfl⟩
  · rw [hexec, flattenFlow_open ho, flowEnd_ok]
  · obtain ⟨ts, -, -, hflow⟩ := flattenFlow_mapped hm hc hmap
    exact ⟨_, by rw [hexec, hflow, flowEnd_ok], rfl, exec_render_flattened (by rw [hm]; rfl) hp hl hb hflow⟩
  · obtain ⟨ts, -, -, hflow⟩ := flattenFlow_raises hm hc hmesh hgroup hmap hv
    exact ⟨_, by rw [hexec, hflow, flowEnd_error], rfl, exec_render_flatten_raises (by rw [hm]; rfl) hp hl hb hflow⟩

end Sys2Proof.Machine
end

section
/-! PROOF. SegmentsSplitAtPages and WriteLineWritesItsBytesOnly (spec/46_framestore.md R151, R152): what a page split is, and
a line write through one, whole or up to the first segment past the end of memory. -/

open Sys2Proof

namespace Sys2Proof.Machine

variable {s t : State} {g : Screen} {y a n x k : Nat} {data : List Byte} {segs pre post : List (Nat × Nat)}

/-! ### The page split (R151) -/

/-- The list splits the `n` bytes from `a` on into runs that each lie in one page; where bytes remain after a run, the run
ends at the end of its page (R151). -/
inductive PageSplit : Nat → Nat → List (Nat × Nat) → Prop
  | nil (a : Nat) : PageSplit a 0 []
  | cons {a k m : Nat} {segs : List (Nat × Nat)} (hpos : 1 ≤ k) (hpage : a / 1024 = (a + k - 1) / 1024)
      (hend : m ≠ 0 → (a + k) % 1024 = 0) (hrest : PageSplit (a + k) m segs) :
      PageSplit a (k + m) ((a, k) :: segs)

/-- With as much fuel as there are bytes the model's recursion makes a page split. -/
theorem pageSplit_segmentsFrom (fuel a n : Nat) (hf : n ≤ fuel) : PageSplit a n (segmentsFrom fuel a n) := by
  induction fuel generalizing a n with
  | zero =>
    obtain rfl : n = 0 := Nat.le_zero.mp hf
    exact .nil a
  | succ fuel ih =>
    rw [segmentsFrom]
    split
    · next h0 => exact h0 ▸ .nil a
    · next h0 =>
      have hk : min n (Config.pageSize - a % Config.pageSize) = min n (1024 - a % 1024) := rfl
      generalize min n (Config.pageSize - a % Config.pageSize) = k at hk
      obtain ⟨m, rfl⟩ : ∃ m, n = k + m := ⟨n - k, by omega⟩
      dsimp only
      rw [Nat.add_sub_cancel_left]
      exact .cons (by omega) (by omega) (by omega) (ih (a + k) m (by omega))

theorem pageSplit_segments (a n : Nat) : PageSplit a n (segments a n) := pageSplit_segmentsFrom n a n (Nat.le_refl n)

/-- The bytes of the runs, in order, are those of the range. -/
theorem PageSplit.flatMap_addresses (h : PageSplit a n segs) :
    segs.flatMap (fun p => (List.range p.2).map (p.1 + ·)) = (List.range n).map (a + ·) := by
  induction h with
  | nil => rfl
  | cons hpos hpage hend hrest ih =>
    simp [ih, List.range_add, Function.comp_def, Nat.add_assoc]

/-- No run is empty, and none crosses a page. -/
theorem PageSplit.run_in_page (h : PageSplit a n segs) :
    ∀ p ∈ segs, 1 ≤ p.2 ∧ p.2 ≤ 1024 ∧ p.1 / 1024 = (p.1 + p.2 - 1) / 1024 := by
  induction h with
  | nil => exact nofun
  | cons hpos hpage hend hrest ih => exact List.forall_mem_cons.mpr ⟨⟨hpos, by omega, hpage⟩, ih⟩

/-- Every run lies in the range. -/
theorem PageSplit.run_in_range (h : PageSplit a n segs) {p : Nat × Nat} (hp : p ∈ segs) :
    a ≤ p.1 ∧ p.1 + p.2 ≤ a + n := by
  induction h with
  | nil => cases hp
  | cons hpos hpage hend hrest ih =>
    rcases List.mem_cons.mp hp with rfl | hp
    · exact ⟨Nat.le_refl _, by omega⟩
    · have := ih hp
      omega

/-- A run with another after it ends at a page boundary. -/
theorem PageSplit.run_ends_page (h : PageSplit a n segs) {i : Nat} {p r : Nat × Nat} (hp : segs[i]? = some p)
    (hr : segs[i + 1]? = some r) : (p.1 + p.2) % 1024 = 0 := by
  induction h generalizing i with
  | nil => cases hp
  | @cons _ _ _ segs hpos hpage hend hrest ih =>
    cases i with
    | zero =>
      obtain rfl := Option.some.inj hp
      have hr : r ∈ segs := List.mem_of_getElem? (i := 0) hr
      obtain ⟨hnonempty, -⟩ := hrest.run_in_page r hr
      obtain ⟨hstart, hstop⟩ := hrest.run_in_range hr
      exact hend (by omega)
    | succ i => exact ih hp hr

/-- Settles O33: the properties of a page split, which the segments are. -/
theorem segmentsSplitAtPages : Obligations.SegmentsSplitAtPages := by
  unfold Obligations.SegmentsSplitAtPages
  intro a n
  have h := pageSplit_segments a n
  exact ⟨h.flatMap_addresses, h.run_in_page, fun i p r => h.run_ends_page⟩

/-! ### A line write (R152) -/

/-- The bytes of a page split before its run at `x`, inside memory, are written in one piece, and the transfer goes on from
`x` with the data that is left. -/
theorem PageSplit.writeSegments_before (h : PageSplit a n (pre ++ (x, k) :: post)) (hlen : n ≤ data.length)
    (hpre : ∀ p ∈ pre, p.1 + p.2 ≤ s.params.extMemSize) :
    writeSegments (pre ++ (x, k) :: post) data s =
      writeSegments ((x, k) :: post) (data.drop (x - a)) (s.withExt (putBytes a (data.take (x - a)) s.ext)) := by
  induction pre generalizing a n data s with
  | nil =>
    cases h
    simp [putBytes]
  | cons p pre ih =>
    cases h with
    | @cons _ j m _ hpos hpage hend hrest =>
      obtain ⟨hp, hpre⟩ := List.forall_mem_cons.mp hpre
      have htake : (data.take j).length = j := List.length_take_of_le (by omega)
      have hle : a + j ≤ x := (hrest.run_in_range (p := (x, k)) (by simp)).1
      have hx : x - a = j + (x - (a + j)) := by omega
      have hrec := ih (data := data.drop j) (s := s.withExt (putBytes a (data.take j) s.ext)) hrest
        (by rw [List.length_drop]; omega) hpre
      rw [List.cons_append, writeSegments, memWrite_ok (by rwa [htake])]
      dsimp only
      rw [hrec, hx, List.drop_drop, List.take_add, putBytes_append, htake,
        State.withExt_withExt, State.withExt_ext]

/-- A segment lies in the range of its transfer. -/
theorem segment_in_range (hseg : segments a n = pre ++ (x, k) :: post) : a ≤ x ∧ x + k ≤ a + n :=
  (hseg ▸ pageSplit_segments a n).run_in_range (p := (x, k)) (by simp)

/-- A line write raises at the first segment that passes the end of memory, with the bytes before it written and the bus
held (R45, R152; log 13). -/
theorem writeLineFlow_pastSegment (hseg : segments (lineAddr s.params g s.writeId y) data.length = pre ++ (x, k) :: post)
    (hpre : ∀ p ∈ pre, p.1 + p.2 ≤ s.params.extMemSize) (hpast : s.params.extMemSize < x + k) :
    writeLineFlow g y data s =
      .error { s.withExt (putBytes (lineAddr s.params g s.writeId y)
        (data.take (x - lineAddr s.params g s.writeId y)) s.ext) with
          bus := .held .a, fault := some (.extMemRange x) } := by
  have hsplit := pageSplit_segments (lineAddr s.params g s.writeId y) data.length
  rw [hseg] at hsplit
  obtain ⟨hstart, hend⟩ := segment_in_range hseg
  rw [writeLineFlow, hseg, hsplit.writeSegments_before (s := s.takeBus .a) (Nat.le_refl _) hpre,
    writeSegments_pastEnd]
  · rfl
  · rw [List.length_take_of_le (by rw [List.length_drop]; omega)]
    exact hpast

/-- The byte read at a place in the range of a write is the byte written there. -/
theorem some_extByte_putBytes (bs : List Byte) {i : Nat} (ht : t.ext = putBytes a bs s.ext) (hi : i < bs.length) :
    some (extByte t (a + i)) = bs[i]? := by
  rw [extByte, ht, tableGet_putBytes, if_pos (by omega), Nat.add_sub_cancel_left, List.getElem?_eq_getElem hi]
  rfl

/-- What `write_line` leaves unchanged, whether it ends or raises. -/
theorem writeLine_frame (hg : s.mode.screen? = some g) (h : writeLine? y data s = some t) :
    t = { s with ext := t.ext, bus := t.bus, fault := t.fault } ∧
      WrittenWithin s.params.extMemSize (lineAddr s.params g s.writeId y) data.length s.ext t.ext := by
  obtain ⟨hn, -⟩ | ⟨g', ext, hg', hw, hcase⟩ := writeLine_spec h
  · cases hn.symm.trans hg
  · obtain rfl := Option.some.inj (hg'.symm.trans hg)
    rcases hcase with rfl | ⟨x, rfl⟩
    all_goals exact ⟨rfl, hw⟩

/-- Settles O35: the whole write inside memory, the write up to the first segment past its end, and the frame; a write that
waits changes nothing. -/
theorem writeLineWritesItsBytesOnly : Obligations.WriteLineWritesItsBytesOnly := by
  unfold Obligations.WriteLineWritesItsBytesOnly
  intro s g y data hg
  refine ⟨fun hb hfit => ?_, fun pre post x k hb hseg hpre hpast => ?_, fun t h => ?_⟩
  · refine ⟨_, exec_writeLine_inside hg hb hfit, ?_, fun i => some_extByte_putBytes data rfl⟩
    rw [State.freeBus_of_free (by exact hb)]
    rfl
  · obtain ⟨hstart, hend⟩ := segment_in_range hseg
    have htake := List.length_take_of_le (i := x - lineAddr s.params g s.writeId y) (l := data) (by omega)
    refine ⟨_, by rw [exec_writeLine_free hg hb, writeLineFlow_pastSegment hseg hpre hpast, flowEnd_error], rfl,
      fun i hi => ?_, fun b hx => ?_⟩
    · rw [some_extByte_putBytes (s := s) _ rfl (by omega), List.getElem?_take_of_lt (by omega)]
    · exact (extByte_putBytes s _ _ b).trans (dif_neg (by omega))
  · rcases stepOrWait_next h with h | ⟨-, rfl⟩
    · obtain ⟨hframe, hw⟩ := writeLine_frame hg h
      exact ⟨hframe, fun b => hw.extByte_outside⟩
    · exact ⟨rfl, fun _ _ => rfl⟩

end Sys2Proof.Machine
end

section
/-! PROOF. UnpackOfPack (spec/20_memory.md R43, spec/44_rasterizer.md R126, spec/47_scanline_supplier.md R162): each bit of
a bit string, as a bit of the byte or of the pixel that holds it. -/

open Sys2Proof

namespace Sys2Proof.Machine

variable {α : Type} {d k n v : Nat} {lb : List Pixel} {bs : List Byte} {p : Pixel} {byte : Byte}

theorem Depth.bits_pos (d : Depth) : 0 < d.bits := by cases d <;> decide

theorem Depth.bits_le_16 (d : Depth) : d.bits ≤ 16 := by cases d <;> decide

/-! ### Bits of a bit string -/

/-- In a list of `d`-bit places, bit `k` is in the first place or, `d` bits further on, in the others. -/
theorem getElem?_cons_div (hd : 0 < d) (x : α) (xs : List α) :
    (x :: xs)[k / d]? = if k < d then some x else xs[(k - d) / d]? := by
  split
  · rw [Nat.div_eq_of_lt ‹_›, List.getElem?_cons_zero]
  · rw [Nat.div_eq_sub_div hd (Nat.le_of_not_lt ‹_›), List.getElem?_cons_succ]

theorem testBit_add_two_pow_mul {a : Nat} (ha : a < 2 ^ d) :
    (a + 2 ^ d * v).testBit k = if k < d then a.testBit k else v.testBit (k - d) := by
  rw [Nat.add_comm, Nat.testBit_two_pow_mul_add v ha]

/-- Bit `k` of the string that bytes hold is bit `k mod 8` of byte `k div 8`, and 0 after them (R43). -/
theorem testBit_stringOfBytes (bs : List Byte) (k : Nat) :
    (stringOfBytes bs).testBit k = (bs[k / 8]?.getD 0#8).getLsbD (k % 8) := by
  induction bs generalizing k with
  | nil => simp [stringOfBytes]
  | cons b bs ih =>
    rw [stringOfBytes, show 256 = 2 ^ 8 from rfl, testBit_add_two_pow_mul b.isLt, getElem?_cons_div (by decide), ih]
    split
    · rw [Nat.mod_eq_of_lt ‹_›]
      rfl
    · rw [← Nat.mod_eq_sub_mod (Nat.le_of_not_lt ‹_›)]

/-- Bit `k` of a line's string is bit `k mod d` of pixel `k div d`, and 0 after the last pixel (R43). -/
theorem testBit_bitString (hd : 0 < d) (lb : List Pixel) (k : Nat) :
    (bitString d lb).testBit k = (lb[k / d]?.getD 0#16).getLsbD (k % d) := by
  induction lb generalizing k with
  | nil => simp [bitString]
  | cons p ps ih =>
    rw [bitString, testBit_add_two_pow_mul (Nat.mod_lt _ (Nat.two_pow_pos d)), getElem?_cons_div hd, ih,
      Nat.testBit_mod_two_pow]
    split
    · rename_i hk
      simp [BitVec.getLsbD, Nat.mod_eq_of_lt hk, hk]
    · rw [← Nat.mod_eq_sub_mod (Nat.le_of_not_lt ‹_›)]

/-! ### Packed lines (R126) -/

/-- The bytes of a packed line hold the line's bit string. -/
theorem stringOfBytes_pack (d : Nat) (lb : List Pixel) : stringOfBytes (pack d lb) = bitString d lb := by
  rw [pack, stringOfBytes_bytesOfString,
    Nat.mod_eq_of_lt ((bitString_lt d lb).trans_le (two_pow_le_stride lb.length d))]

theorem getLsbD_pack (hd : 0 < d) (h : (pack d lb)[k / 8]? = some byte) :
    byte.getLsbD (k % 8) = (lb[k / d]?.getD 0#16).getLsbD (k % d) := by
  rw [← testBit_bitString hd, ← stringOfBytes_pack, testBit_stringOfBytes, h, Option.getD_some]

/-- Pixels below `2^d` are their own pixel values (R124). -/
theorem map_pixelValue_of_lt (h : ∀ p ∈ lb, p.toNat < 2 ^ d) : lb.map (pixelValue d) = lb :=
  (List.map_congr_left fun p hp => by
    rw [pixelValue, Nat.mod_eq_of_lt (h p hp), BitVec.ofNat_toNat, BitVec.setWidth_eq]; rfl).trans lb.map_id

/-! ### Unpacked lines (R162) -/

/-- Pixel `i` of a bit string is its bits from `i*d` on. -/
theorem getElem?_pixelsOfString {i : Nat} (h : (pixelsOfString d n v)[i]? = some p) :
    p = BitVec.ofNat 16 (v / 2 ^ (i * d) % 2 ^ d) := by
  induction n generalizing v i with
  | zero => cases h
  | succ n ih =>
    cases i with
    | zero => simpa [pixelsOfString] using h.symm
    | succ i =>
      rw [ih h, Nat.div_div_eq_div_mul, ← Nat.pow_add, Nat.succ_mul, Nat.add_comm d]

/-- The value of a pixel of a bit string, at a depth that fits it. -/
theorem toNat_of_mem_pixelsOfString {i : Nat} (hd : d ≤ 16) (h : (pixelsOfString d n v)[i]? = some p) :
    p.toNat = v / 2 ^ (i * d) % 2 ^ d := by
  have hlt : v / 2 ^ (i * d) % 2 ^ d < 2 ^ 16 :=
    (Nat.mod_lt _ (Nat.two_pow_pos d)).trans_le (Nat.pow_le_pow_right (by decide) hd)
  rw [getElem?_pixelsOfString h, BitVec.toNat_ofNat, Nat.mod_eq_of_lt hlt]

/-- Settles O34: a packed line holds the line's bit string, bit by bit; an unpacked pixel is its `d` bits of the string. -/
theorem unpackOfPack : Obligations.UnpackOfPack := by
  unfold Obligations.UnpackOfPack
  intro d
  refine ⟨fun lb h => by rw [unpack_pack, map_pixelValue_of_lt h],
    fun lb => ⟨pack_length _ lb, fun k byte hb => ?_⟩, fun n bs _ => ⟨unpack_length _ n bs, fun i p hp => ?_⟩⟩
  · have hbit := getLsbD_pack d.bits_pos hb
    refine ⟨fun p hp => ?_, fun hlen => ?_⟩
    · rw [hbit, hp, Option.getD_some]
    · rw [hbit, List.getElem?_eq_none hlen, Option.getD_none, BitVec.getLsbD_zero]
  · have hv := toNat_of_mem_pixelsOfString d.bits_le_16 hp
    refine ⟨hv ▸ Nat.mod_lt _ (Nat.two_pow_pos _), fun j byte hj hb => ?_⟩
    calc p.getLsbD j = (stringOfBytes bs).testBit (i * d.bits + j) := by
          rw [BitVec.getLsbD, hv, Nat.testBit_mod_two_pow, Nat.testBit_div_two_pow, decide_eq_true hj, Bool.true_and,
            Nat.add_comm]
      _ = byte.getLsbD ((i * d.bits + j) % 8) := by rw [testBit_stringOfBytes, hb, Option.getD_some]

end Sys2Proof.Machine
end

section
/-! PROOF. TickIsRequestedAndTaken, ScanlineReadUnpacksTheReadPlane, SubmitAppendsTheScanline and ScanlineOperationsFrame
(spec/47_scanline_supplier.md R157 to R166): each operation of context B in its phase, as the state it leaves. -/

open Sys2Proof

namespace Sys2Proof.Machine

variable {s t : State} {g : Screen} {slot : Slot}

/-! ### The tick (R157, R158, R166) -/

/-- `get_slot` in its phase: at the first line of a frame the tick is requested, and waited for if it blocks B (R158). -/
theorem getSlot_ready (hb : s.bPhase = .getSlot) :
    getSlot? s = some { s with
      bSlot := some s.dispNext, dispNext := nextSlot s.params s.dispNext
      tickReq := if s.dispNext.phys = 0 then true else s.tickReq
      bPhase := if s.dispNext.phys = 0 ∧ s.params.tickBlocksB = true then .waitTick else .read } := by
  simp only [getSlot?, hb]
  by_cases hy : s.dispNext.phys = 0
  · simp [hy]
  · simp [hy]

theorem renderTick_ready (hp : s.aPhase = .idle) (ht : s.tickReq = true) :
    renderTick? s = some { s with tickReq := false, aPhase := .drain } := if_pos ⟨hp, ht⟩

/-- Settles O44: `get_slot` in its phase; `render_tick` of an idle A. -/
theorem tickIsRequestedAndTaken : Obligations.TickIsRequestedAndTaken := by
  unfold Obligations.TickIsRequestedAndTaken
  exact fun s => ⟨fun hb => congrArg (stepOrWait s) (getSlot_ready hb),
    fun hp ht => congrArg (stepOrWait s) (renderTick_ready hp ht)⟩

/-! ### The read (R160 to R162) -/

section Read

variable (hg : s.mode.screen? = some g) (hb : s.bPhase = .read) (hs : s.bSlot = some slot) (hl : s.lock = .free)
include hg hb hs hl

/-- A slot on the image reads its line under the lock (R161). -/
theorem scanlineRead_onImage (hy : logicalLine s.params slot < g.height.toNat) (hbus : s.bus = .free) :
    scanlineRead? s = some (flowEnd (readScanline g (logicalLine s.params slot) { s with lock := .held .b })) := by
  simp only [scanlineRead?, hb, acquireLock_free hl, hg, hs, if_pos hy, busReady_free, hbus, if_true]

/-- A slot below the image draws its pixels (R161; log 23). -/
theorem scanlineRead_belowImage (hy : ¬logicalLine s.params slot < g.height.toNat) :
    scanlineRead? s = some (drawScanline g { s with lock := .held .b }) := by
  simp only [scanlineRead?, hb, acquireLock_free hl, hg, hs, if_neg hy]

end Read

/-- A line read inside memory gives B its pixels and palette, and frees the lock and the bus (R161, R162, R180). -/
theorem readScanline_inside {y : Nat} (hl : s.lock = .free) (hbus : s.bus = .free)
    (hfit : lineAddr s.params g s.readId y + g.stride ≤ s.params.extMemSize) :
    readScanline g y { s with lock := .held .b } = .ok { s with
      bPhase := .submit, bPalette := g.paletteDepth
      bPixels := unpack g.depth.bits g.width.toNat ((List.range g.stride).map fun i =>
        extByte s (lineAddr s.params g s.readId y + i)) } := by
  rw [readScanline, readLineFlow_ok (by exact hfit)]
  simp only [releaseLock_held, State.freeBus, ← hl, ← hbus]
  rfl

/-- A line drawn gives B its pixels and palette, counts the draw and frees the lock (R161, R180). -/
theorem drawScanline_eq (hl : s.lock = .free) :
    drawScanline g { s with lock := .held .b } = { s with
      bPhase := .submit, bPalette := g.paletteDepth, draws := s.draws + 1
      bPixels := (List.range g.width.toNat).map fun i => pixelValue g.depth.bits (Config.freePixel s.draws i) } := by
  rw [drawScanline, releaseLock_held rfl, ← hl]

/-- A pixel value has the depth's bits (R124). -/
theorem pixelValue_lt (d : Nat) (c : Pixel) : (pixelValue d c).toNat < 2 ^ d := by
  have hle : c.toNat % 2 ^ d < 2 ^ 16 := (Nat.mod_le _ _).trans_lt c.isLt
  rw [pixelValue, BitVec.toNat_ofNat, Nat.mod_eq_of_lt hle]
  exact Nat.mod_lt _ (Nat.two_pow_pos d)

/-- Settles O45: on the image, where both planes fit, the line lies inside memory; below it, the pixels are drawn. -/
theorem scanlineReadUnpacksTheReadPlane : Obligations.ScanlineReadUnpacksTheReadPlane := by
  unfold Obligations.ScanlineReadUnpacksTheReadPlane
  intro s g slot hg hb hs hl _
  refine ⟨fun (hy : logicalLine s.params slot < _) hbus hfit => ?_, fun hy => ?_⟩
  · have hr := scanlineRead_onImage hg hb hs hl hy hbus
    rw [readScanline_inside hl hbus (line_inside hfit s.readId hy), flowEnd_ok] at hr
    exact congrArg (stepOrWait s) hr
  · have hr := scanlineRead_belowImage hg hb hs hl (Nat.not_lt.mpr hy)
    rw [drawScanline_eq hl] at hr
    refine ⟨_, congrArg (stepOrWait s) hr, by simp, fun p hp => ?_, rfl⟩
    obtain ⟨i, -, rfl⟩ := List.mem_map.mp hp
    exact pixelValue_lt _ _

/-! ### The submit (R163 to R165) -/

/-- B with a slot submits the command of its pixels for it (R165). -/
theorem submit_slot (hb : s.bPhase = .submit) (hs : s.bSlot = some slot) :
    submit? s = some { s with video := s.video ++ [(slot, scanlineCmd s)], bSlot := none, bPhase := .getSlot } := by
  simp only [submit?, hb, hs]

/-- A read that goes on to Submit leaves B its slot, with the pixels of a line and the palette of the mode (R161, R180). -/
theorem scanlineRead_toSubmit (h : scanlineRead? s = some t) (hg : s.mode.screen? = some g) (hb : t.bPhase = .submit) :
    t.bSlot = s.bSlot ∧ t.bPixels.length = g.width.toNat ∧ t.bPalette = g.paletteDepth := by
  obtain ⟨hread, -, ⟨hn, -⟩ | ⟨g', hg', ⟨px, bus, draws, hlen, -, rfl⟩ | ⟨x, y, -, -, rfl⟩⟩⟩ := scanlineRead_spec h
  · cases hn.symm.trans hg
  · obtain rfl := Option.some.inj (hg'.symm.trans hg)
    exact ⟨rfl, hlen, rfl⟩
  · cases hread.symm.trans hb

/-- Settles O46: `submit` with a slot, and then with what a read that went on to Submit has left. -/
theorem submitAppendsTheScanline : Obligations.SubmitAppendsTheScanline := by
  unfold Obligations.SubmitAppendsTheScanline
  intro s slot
  refine ⟨fun hb hs => congrArg (stepOrWait s) (submit_slot hb hs), ?_⟩
  intro g t u hg hread hs _ h hb hub hus hupx hupal
  rcases stepOrWait_next h with h | ⟨-, rfl⟩
  · obtain ⟨hslot, hlen, hpal⟩ := scanlineRead_toSubmit h hg hb
    have hcmd : scanlineCmd u = [.rawRun g.width.toNat (t.bPixels.map fun p =>
        if g.palette then Config.videoPixel (Config.palette g.depth p) else Config.videoPixel p.toNat), .endOfLine] := by
      simp only [scanlineCmd, hupx, hupal, hlen, hpal, ← displayPixel_paletteDepth]
    rw [← hcmd]
    exact congrArg (stepOrWait u) (submit_slot (hub.trans hb) (hus.trans (hslot.trans hs)))
  · cases hread.symm.trans hb

/-! ### The frame (R158, R161, R165: State written) -/

/-- What the three operations of B change. -/
theorem scanlineOperation_frame (h : getSlot? s = some t ∨ scanlineRead? s = some t ∨ submit? s = some t) :
    ∃ next slot req phase pixels pal lock bus video fault refused draws, t = { s with
      dispNext := next, bSlot := slot, tickReq := req, bPhase := phase, bPixels := pixels, bPalette := pal, lock := lock
      bus := bus, video := video, fault := fault, refused := refused, draws := draws } := by
  rcases h with h | h | h
  · obtain ⟨-, req, phase, -, rfl⟩ := getSlot_spec h
    exact ⟨_, _, _, _, _, _, _, _, _, _, _, _, rfl⟩
  · obtain ⟨-, -, ⟨-, rfl⟩ | ⟨g, -, ⟨px, bus, draws, -, -, rfl⟩ | ⟨x, y, -, -, rfl⟩⟩⟩ := scanlineRead_spec h
    all_goals exact ⟨_, _, _, _, _, _, _, _, _, _, _, _, rfl⟩
  · obtain ⟨slot, -, -, rfl⟩ := submit_spec h
    exact ⟨_, _, _, _, _, _, _, _, _, _, _, _, rfl⟩

/-- Settles O58: the frame of the three, in which memory does not stand; one that waits changes nothing. -/
theorem scanlineOperationsFrame : Obligations.ScanlineOperationsFrame := by
  unfold Obligations.ScanlineOperationsFrame
  intro i s t hi h
  have hstep : (getSlot? s = some t ∨ scanlineRead? s = some t ∨ submit? s = some t) ∨ t = s := by
    rcases hi with rfl | rfl | rfl
    · exact (stepOrWait_next h).imp .inl And.right
    · exact (stepOrWait_next h).imp (.inr ∘ .inl) And.right
    · exact (stepOrWait_next h).imp (.inr ∘ .inr) And.right
  rcases hstep with h | rfl
  · obtain ⟨next, slot, req, phase, pixels, pal, lock, bus, video, fault, refused, draws, rfl⟩ := scanlineOperation_frame h
    exact ⟨rfl, fun _ => rfl⟩
  · exact ⟨rfl, fun _ => rfl⟩

end Sys2Proof.Machine
end

section
/-! PROOF. AgentsPerformTheirInstruction and StoppedBlockHasNoStep (spec/60_exceptions.md R169, R171, R174): the action each
agent takes in its phase, and what a step answers in a marked and in a running state. -/

open Sys2Proof

namespace Sys2Proof.Machine

variable {s : State}

/-! ### What A does in its phase (R106, R132, R166) -/

theorem ctxAAction_renderTick (hp : s.aPhase = .idle) (ht : s.tickReq = true) : ctxAAction s = .perform .renderTick := by
  simp [ctxAAction, hp, ht]

theorem ctxAAction_pop (hp : s.aPhase = .drain) (hm : s.aMsg = none) (hq : s.q ≠ []) : ctxAAction s = .perform .pop := by
  simp [ctxAAction, hp, hm, hq]

theorem ctxAAction_render {l : Nat} (hp : s.aPhase = .render l) : ctxAAction s = .perform .render := by
  simp only [ctxAAction, hp]

/-! ### What B does in its phase (R158, R161, R165) -/

theorem ctxBAction_getSlot (hp : s.bPhase = .getSlot) : ctxBAction s = .perform .getSlot := by simp only [ctxBAction, hp]

theorem ctxBAction_read (hp : s.bPhase = .read) : ctxBAction s = .perform .scanlineRead := by simp only [ctxBAction, hp]

theorem ctxBAction_submit (hp : s.bPhase = .submit) : ctxBAction s = .perform .submit := by simp only [ctxBAction, hp]

/-- Settles O3: the step of each agent's action. -/
theorem agentsPerformTheirInstruction : Obligations.AgentsPerformTheirInstruction := by
  unfold Obligations.AgentsPerformTheirInstruction
  intro s rest h
  refine ⟨fun hs hp t n ha => ⟨?_, fun hn hrx => step_of_action h hs (framerAction_deliver ⟨h, hp, ha⟩ hn hrx)⟩,
    fun hs => ⟨fun hp ht => step_of_action h hs (ctxAAction_renderTick hp ht),
      fun hp hm hq => step_of_action h hs (ctxAAction_pop hp hm hq), fun hp hm => ?_,
      fun l hp => step_of_action h hs (ctxAAction_render hp)⟩,
    fun hs => ⟨fun hp => step_of_action h hs (ctxBAction_getSlot hp), fun hp => step_of_action h hs (ctxBAction_read hp),
      fun hp => step_of_action h hs (ctxBAction_submit hp)⟩⟩
  · rintro rfl
    exact step_of_action h hs (framerAction_transferComplete ⟨h, hp, ha⟩)
  · obtain ⟨m, hm⟩ := Option.ne_none_iff_exists'.mp hm
    exact step_dispatch h hs hp hm

/-! ### Marked and running states (R169, R171) -/

theorem step_faulted {f : FaultInfo} (hf : s.fault = some f) : step s = .fault (.halted f) := by simp only [step, hf]

theorem step_refused {r : RefusalName} (hf : s.fault = none) (hr : s.refused = some r) :
    step s = .refused (.marked r) := by simp only [step, hf, hr]

/-- In a running state the agent whose turn it is acts. -/
theorem step_running (h : stopped s = false) : step s = act (actionOf (takeTurn s).1 (takeTurn s).2) (takeTurn s).2 := by
  obtain ⟨hf, hr⟩ := stopped_eq_false h
  simp only [step, hf, hr]

/-- Settles O5: the two marks, and every action answers a next state. -/
theorem stoppedBlockHasNoStep : Obligations.StoppedBlockHasNoStep := by
  unfold Obligations.StoppedBlockHasNoStep
  exact fun s => ⟨fun f => step_faulted, fun r => step_refused, fun h => step_running h ▸ act_next _ _⟩

end Sys2Proof.Machine
end

section
/-! PROOF. FaultsAreRaisedWhereTheSpecSays and IdsAndHandlersHaveTheirOwnWriters (spec/60_exceptions.md R170,
spec/70_reset_and_hazards.md R192, spec/46_framestore.md R156): what each instruction writes of the parameters, the handlers,
the buffer ids and the fault. -/

open Sys2Proof

namespace Sys2Proof.Machine

variable {s t : State} {i : Instr} {w : Wire} {y n : Nat} {data : List Byte}

/-- The codes of the faults an instruction can raise (R170). -/
def faultCodes : Instr → List Nat
  | .render => [1, 2, 3, 4]
  | .flatten => [4]
  | .scanlineRead | .writeLine .. | .readLine .. => [3]
  | _ => []

/-- From `s` to `t` the parameters, the handlers, the buffer ids and the fault are as they were, but for what `i` is a writer
of (R105, R155, R156, R170). -/
structure WritesItsOwn (i : Instr) (s t : State) : Prop where
  params : t.params = s.params
  handlers : t.handlers = s.handlers ∨ ∃ id k, i = .register id k
  ids : (t.readId = s.readId ∧ t.writeId = s.writeId) ∨
    ((i = .swap ∨ i = .swapBuffer ∨ i = .dispatch) ∧ t.readId = s.writeId ∧ t.writeId = s.readId)
  fault : t.fault = s.fault ∨ ∃ f, t.fault = some f ∧ f.code ∈ faultCodes i

/-! ### The writers -/

/-- An instruction that writes none of the four. -/
theorem WritesItsOwn.of_same (hp : t.params = s.params) (hh : t.handlers = s.handlers) (hr : t.readId = s.readId)
    (hw : t.writeId = s.writeId) (hf : t.fault = s.fault) : WritesItsOwn i s t := ⟨hp, .inl hh, .inl ⟨hr, hw⟩, .inl hf⟩

/-- An instruction that writes at most the fault, with a code of its own. -/
theorem WritesItsOwn.of_fault {f : FaultInfo} (hp : t.params = s.params) (hh : t.handlers = s.handlers)
    (hr : t.readId = s.readId) (hw : t.writeId = s.writeId) (hf : t.fault = some f) (hc : f.code ∈ faultCodes i) :
    WritesItsOwn i s t := ⟨hp, .inl hh, .inl ⟨hr, hw⟩, .inr ⟨f, hf, hc⟩⟩

theorem WritesItsOwn.refl (i : Instr) (s : State) : WritesItsOwn i s s := .of_same rfl rfl rfl rfl rfl

/-- An operation that writes only its own when it steps writes only its own. -/
theorem WritesItsOwn.of_stepOrWait {o : Option State} (h : stepOrWait s o = .next t)
    (hstep : o = some t → WritesItsOwn i s t) : WritesItsOwn i s t := by
  rcases stepOrWait_next h with h | ⟨-, rfl⟩
  · exact hstep h
  · exact .refl i t

/-- A handler writes no handlers and raises nothing; only SWAP_BUFFER's exchanges the ids (R112 to R122). -/
theorem runHandler_writes {k : CommandKind} {p : List Byte} (hi : k = .swapBuffer → i = .swapBuffer ∨ i = .dispatch)
    (h : runHandler k p s = some t) : WritesItsOwn i s t := by
  obtain ⟨log, tx, mode, prims, color, r, w, hids, rfl⟩ := runHandler_frame h
  exact ⟨rfl, .inl rfl, hids.imp_right fun ⟨hk, hrw⟩ => ⟨.inr (hi hk), hrw⟩, .inl rfl⟩

/-- The wire commands (R107 to R123). -/
theorem exec_packet_writes (hi : (encodeMessage w i).isSome = true) (h : exec i s = .next t) : WritesItsOwn i s t := by
  obtain ⟨⟨id, p⟩, hi⟩ := Option.isSome_iff_exists.mp hi
  cases messageOf_of_encodeMessage hi with
  | command k p _ =>
    rw [exec_instrOf] at h
    exact .of_stepOrWait h (runHandler_writes fun hk => .inl (hk ▸ rfl))
  | infoResponse dir p _ => cases dir <;> cases h <;> exact .of_same rfl rfl rfl rfl rfl
  | unknownId => cases h; exact .of_same rfl rfl rfl rfl rfl

theorem dispatch_writes (h : dispatch? s = some t) : WritesItsOwn .dispatch s t := by
  obtain ⟨m, -, ⟨k, -, hk⟩ | ⟨-, rfl⟩⟩ := dispatch_spec h
  · obtain ⟨hp, hh, hids, hf⟩ := runHandler_writes (i := .dispatch) (fun _ => .inr rfl) hk
    exact ⟨hp, hh, hids, hf⟩
  · exact .of_same rfl rfl rfl rfl rfl

/-- `register` writes the handlers alone, or is refused (R105). -/
theorem register_writes (id : Byte) (k : CommandKind) (s : State) :
    WritesItsOwn (.register id k) s (register id k s) := by
  rw [register]
  split
  · exact .of_same rfl rfl rfl rfl rfl
  · exact ⟨rfl, .inr ⟨id, k, rfl⟩, .inl ⟨rfl, rfl⟩, .inl rfl⟩

/-- A pass can raise every fault (R135). -/
theorem render_writes (h : render? s = some t) : WritesItsOwn .render s t := by
  obtain ⟨-, ⟨-, rfl⟩ | ⟨g, lb, ext, bus, mode, -, -, -, -, -, ⟨-, rfl⟩ | ⟨prims, phase, f, -, rfl⟩⟩⟩ := render_spec h
  · exact .of_same rfl rfl rfl rfl rfl
  · exact .of_same rfl rfl rfl rfl rfl
  · exact .of_fault rfl rfl rfl rfl rfl (by cases f <;> simp [FaultInfo.code, faultCodes])

/-- `flatten` can raise NonFiniteVertex (R144). -/
theorem flatten_writes (s : State) : WritesItsOwn .flatten s (flowEnd (flattenFlow s)) := by
  have hf := flattenFlow_spec s
  cases hr : flattenFlow s with
  | ok u =>
    rw [hr] at hf
    obtain ⟨prims, mode, -, -, -, rfl⟩ := hf
    exact .of_same rfl rfl rfl rfl rfl
  | error u =>
    rw [hr] at hf
    obtain ⟨prims, v, rfl⟩ := hf
    exact .of_fault rfl rfl rfl rfl (f := .nonFiniteVertex v) rfl (List.mem_singleton_self _)

/-- A scanline read can raise ExtMemRange (R161). -/
theorem scanlineRead_writes (h : scanlineRead? s = some t) : WritesItsOwn .scanlineRead s t := by
  obtain ⟨-, -, ⟨-, rfl⟩ | ⟨g, -, ⟨px, bus, draws, -, -, rfl⟩ | ⟨x, y, -, -, rfl⟩⟩⟩ := scanlineRead_spec h
  · exact .of_same rfl rfl rfl rfl rfl
  · exact .of_same rfl rfl rfl rfl rfl
  · exact .of_fault rfl rfl rfl rfl (f := .extMemRange x) rfl (List.mem_singleton_self _)

/-- So can a line write (R152). -/
theorem writeLine_writes (h : writeLine? y data s = some t) : WritesItsOwn (.writeLine y data) s t := by
  obtain ⟨-, rfl⟩ | ⟨g, ext, -, -, rfl | ⟨x, rfl⟩⟩ := writeLine_spec h
  · exact .of_same rfl rfl rfl rfl rfl
  · exact .of_same rfl rfl rfl rfl rfl
  · exact .of_fault rfl rfl rfl rfl (f := .extMemRange x) rfl (List.mem_singleton_self _)

/-- So can a line read (R153). -/
theorem readLine_writes (h : readLine? y n s = some t) : WritesItsOwn (.readLine y n) s t := by
  obtain ⟨-, rfl⟩ | ⟨-, ⟨bs, rfl⟩ | ⟨x, rfl⟩⟩ := readLine_spec h
  · exact .of_same rfl rfl rfl rfl rfl
  · exact .of_same rfl rfl rfl rfl rfl
  · exact .of_fault rfl rfl rfl rfl (f := .extMemRange x) rfl (List.mem_singleton_self _)

/-- What each instruction writes of the four. -/
theorem exec_writes (h : exec i s = .next t) : WritesItsOwn i s t := by
  cases i with
  | modeChange | setPixel | drawLine | drawTriangle | clearScreen | swapBuffer | beginPrimitives | endPrimitives
  | writeVertex | setPerspective | infoRequest | infoResponse | unknownId => exact exec_packet_writes (w := Wire.spec) rfl h
  | crcStep | crcReset | crcRead | crcCheck | arm | allocSlot | drop | addTriangle =>
    cases h
    exact .of_same rfl rfl rfl rfl rfl
  | store =>
    cases h
    obtain ⟨slot, q, draws, hs⟩ := storeSlot_frame s
    rw [hs]
    exact .of_same rfl rfl rfl rfl rfl
  | deliver =>
    refine .of_stepOrWait h fun h => ?_
    obtain ⟨rx, tok, c0, c1, slot, crc, n, rfl⟩ := deliver_frame h
    exact .of_same rfl rfl rfl rfl rfl
  | transferComplete =>
    refine .of_stepOrWait h fun h => ?_
    obtain ⟨phase, armed, n, crc, expected, slot, q, draws, rfl⟩ := transferComplete_frame h
    exact .of_same rfl rfl rfl rfl rfl
  | pop =>
    refine .of_stepOrWait h fun h => ?_
    obtain ⟨m, rest, -, rfl⟩ := pop_spec h
    exact .of_same rfl rfl rfl rfl rfl
  | getSlot =>
    refine .of_stepOrWait h fun h => ?_
    obtain ⟨-, req, phase, -, rfl⟩ := getSlot_spec h
    exact .of_same rfl rfl rfl rfl rfl
  | submit =>
    refine .of_stepOrWait h fun h => ?_
    obtain ⟨slot, -, -, rfl⟩ := submit_spec h
    exact .of_same rfl rfl rfl rfl rfl
  | renderTick =>
    refine .of_stepOrWait h fun h => ?_
    obtain ⟨-, -, rfl⟩ := renderTick_spec h
    exact .of_same rfl rfl rfl rfl rfl
  | register id k => cases h; exact register_writes id k s
  | swap => cases h; exact ⟨rfl, .inl rfl, .inr ⟨.inl rfl, rfl, rfl⟩, .inl rfl⟩
  | dispatch => exact .of_stepOrWait h dispatch_writes
  | render => exact .of_stepOrWait h render_writes
  | flatten => cases h; exact flatten_writes s
  | scanlineRead => exact .of_stepOrWait h scanlineRead_writes
  | writeLine => exact .of_stepOrWait h writeLine_writes
  | readLine => exact .of_stepOrWait h readLine_writes

/-! ### The faults (R170) -/

/-- A code is raised by the instructions the spec's table gives it to. -/
theorem raiser_of_faultCodes {c : Nat} (h : c ∈ faultCodes i) :
    (c = 1 → i = .render) ∧ (c = 2 → i = .render) ∧
    (c = 3 → i = .render ∨ i = .scanlineRead ∨ (∃ y d, i = .writeLine y d) ∨ ∃ y n, i = .readLine y n) ∧
    (c = 4 → i = .render ∨ i = .flatten) := by
  cases i with
  | render => simp
  | flatten | scanlineRead | writeLine | readLine =>
    obtain rfl := List.mem_singleton.mp h
    simp
  | _ => cases h

/-- Settles O55: a fault that was not set is the one the instruction raised. -/
theorem faultsAreRaisedWhereTheSpecSays : Obligations.FaultsAreRaisedWhereTheSpecSays := by
  unfold Obligations.FaultsAreRaisedWhereTheSpecSays
  intro i s t f h hs ht
  obtain hf | ⟨f', hf, hc⟩ := (exec_writes h).fault
  · cases (ht.symm.trans hf).trans hs
  · obtain rfl := Option.some.inj (hf.symm.trans ht)
    exact raiser_of_faultCodes hc

/-! ### The steps (R105, R192) -/

/-- No agent registers a handler (R192). -/
theorem actionOf_ne_register (turn : Turn) (s : State) (id : Byte) (k : CommandKind) :
    actionOf turn s ≠ .perform (.register id k) := by
  cases turn with
  | hostSend | hostTake => exact nofun
  | hostLose =>
    rw [actionOf]
    split <;> exact nofun
  | framer =>
    simp only [actionOf, framerAction]
    split
    · exact nofun
    · split
      · exact nofun
      · split_ifs <;> exact nofun
  | ctxA =>
    simp only [actionOf, ctxAAction]
    split
    · split <;> exact nofun
    · split_ifs <;> exact nofun
    · exact nofun
  | ctxB =>
    simp only [actionOf, ctxBAction]
    split
    · exact nofun
    · split <;> exact nofun
    · exact nofun
    · exact nofun

/-- An action keeps the parameters, and any but `register` the handlers. -/
theorem act_keeps_handlers {a : Action} (ha : ∀ id k, a ≠ .perform (.register id k)) (h : act a s = .next t) :
    t.handlers = s.handlers ∧ t.params = s.params := by
  cases a with
  | perform i =>
    have hw := exec_writes (i := i) h
    exact ⟨hw.handlers.resolve_right fun ⟨id, k, hi⟩ => ha id k (hi ▸ rfl), hw.params⟩
  | resume =>
    rcases stepOrWait_next h with h | ⟨-, rfl⟩
    · obtain ⟨-, -, rfl⟩ := resumeB_spec h
      exact ⟨rfl, rfl⟩
    · exact ⟨rfl, rfl⟩
  | _ => cases h; exact ⟨rfl, rfl⟩

/-- Settles O54: a step is an action of an agent, none of which is `register`; then what each instruction writes. -/
theorem idsAndHandlersHaveTheirOwnWriters : Obligations.IdsAndHandlersHaveTheirOwnWriters := by
  unfold Obligations.IdsAndHandlersHaveTheirOwnWriters
  refine ⟨fun s t h => ?_, fun i s t h => ⟨(exec_writes h).params, (exec_writes h).handlers, (exec_writes h).ids⟩⟩
  obtain ⟨-, turn, sched, draws, ha⟩ := step_next h
  exact act_keeps_handlers (s := { s with sched := sched, draws := draws }) (actionOf_ne_register turn _) ha

end Sys2Proof.Machine
end

section
/-! PROOF. ResetValues and ResetMeetsTheInvariants (spec/70_reset_and_hazards.md R189, R192, R193): the mode and the handlers
that boot leaves, and each invariant of the state after reset. -/

open Sys2Proof Sys2Proof.Safety

namespace Sys2Proof.Machine

variable {p : Params}

/-! ### The values (R189, R192) -/

/-- Boot keeps the screen and the size of the initial mode (R192). -/
theorem Mode.boot_sameScreen (m : Mode) : m.SameScreen m.boot := by cases m <;> exact ⟨rfl, rfl, rfl⟩

@[simp] theorem State.resetWith_params (p : Params) : (State.resetWith p).params = p := rfl

@[simp] theorem State.resetWith_handlers (p : Params) : (State.resetWith p).handlers = bootHandlers p.wire.ids := by
  rw [State.resetWith]

/-- After reset an id's handler is the command a legal id map gives it to (R192). -/
theorem handlerOf_reset (h : p.wire.ids.legal = true) (id : Byte) :
    handlerOf (State.resetWith p) id = kindOfId p.wire.ids id :=
  handlerOf_boot (by rwa [State.resetWith_params]) (by simp)

/-- Settles O48: the fields as reset writes them, the mode by its kind, and the handlers by the id map. -/
theorem resetValues : Obligations.ResetValues := by
  unfold Obligations.ResetValues
  intro p
  refine ⟨rfl, rfl, rfl, rfl, rfl, rfl, rfl, rfl, rfl, rfl, rfl, rfl, rfl, rfl, rfl, rfl, rfl, rfl, rfl, rfl, rfl, rfl, rfl,
    rfl, ?_, fun h => ⟨fun k => ?_, ?_, fun id hid => ?_⟩⟩
  · cases hm : p.initialMode <;> simp only [State.resetWith, hm, Mode.boot, Scene.fresh]
  · rw [handlerOf_reset h, kindOfId_idOf h]
  · rw [handlerOf_reset h, kindOfId_infoResponse h]
  · rw [handlerOf_reset h, (kindOfId_of_lacks hid).1]

/-! ### The invariants (R193) -/

/-- A mode with a screen has its size. -/
theorem Mode.size_of_screen {m : Mode} {g : Screen} (h : m.screen? = some g) : m.width = g.width ∧ m.height = g.height := by
  cases m with
  | text => cases h
  | graphic2D | graphic3D => cases h; exact ⟨rfl, rfl⟩

/-- The initial mode of parameters that meet the preconditions fits (R193). -/
theorem initialMode_fits (h : paramsOk p) : p.initialMode.Fits p := by
  obtain ⟨-, -, g, hg, hw, hh, hfit, -⟩ := h
  obtain ⟨hwidth, hheight⟩ := Mode.size_of_screen hg
  exact ⟨hwidth ▸ hw, hheight ▸ hh, fun g' hg' => Option.some.inj (hg.symm.trans hg') ▸ hfit⟩

theorem reset_modeLegal (h : paramsOk p) : modeLegal (State.resetWith p) :=
  modeLegal_iff.mpr (p.initialMode.boot_sameScreen.fits (initialMode_fits h))

/-- Settles O47: nothing is armed, held, queued, written or raised, the ids are 0 and 1, and the initial mode fits. -/
theorem resetMeetsTheInvariants : Obligations.ResetMeetsTheInvariants := by
  unfold Obligations.ResetMeetsTheInvariants
  intro p h
  exact ⟨⟨⟨rfl, rfl⟩, nofun⟩, Nat.zero_le _, nofun, fun _ => ⟨rfl, rfl⟩, ⟨reset_memory_wf p, nofun⟩, reset_modeLegal h, nofun,
    fun hm => absurd rfl hm⟩

end Sys2Proof.Machine
end
